-- ==== Sys2Proof/Word.lean ====
section
/-! DEFINITION. The two word types of the block: the 8-bit byte of a register, a timer or a memory cell, and the
16-bit word of pc, I, a stack entry or an instruction (10_state.md R20, 30_encoding.md R80). -/

namespace Sys2Proof

/-- An 8-bit value: a general register, a timer, a byte of memory (10_state.md R20). -/
abbrev Byte := BitVec 8

/-- A 16-bit value: `pc`, `I`, a stack entry, an instruction word (10_state.md R20, 30_encoding.md R80). -/
abbrev Word := BitVec 16

end Sys2Proof
end

