-- ==== Sys2Proof/Syntax.lean ====
section
/-! DEFINITION. The instruction set: one constructor per row of spec/opcode_table.json (30_encoding.md R85), in the
table's order. Operand ranges are carried by the types (30_encoding.md R81, R83): a register number or a sprite
height is below 16, `kk` is a byte, `nnn` has 12 bits. -/

namespace Sys2Proof

/-- The number of a general register, a 4-bit field of the instruction (10_state.md R21). -/
abbrev Reg := Fin 16

/-- The 34 instructions (30_encoding.md R85). -/
inductive Instr where
  /-- 00E0 `CLS`, clear the screen (43_display.md R180). -/
  | cls
  /-- 00EE `RET`, return from subroutine (40_flow.md R110). -/
  | ret
  /-- 1nnn `JP nnn` (40_flow.md R111). -/
  | jp (nnn : BitVec 12)
  /-- 2nnn `CALL nnn` (40_flow.md R112). -/
  | call (nnn : BitVec 12)
  /-- 3xkk `SE Vx, kk` (40_flow.md R113). -/
  | seImm (x : Reg) (kk : Byte)
  /-- 4xkk `SNE Vx, kk` (40_flow.md R114). -/
  | sneImm (x : Reg) (kk : Byte)
  /-- 5xy0 `SE Vx, Vy` (40_flow.md R115). -/
  | seReg (x y : Reg)
  /-- 6xkk `LD Vx, kk` (41_alu.md R130). -/
  | ldImm (x : Reg) (kk : Byte)
  /-- 7xkk `ADD Vx, kk` (41_alu.md R131). -/
  | addImm (x : Reg) (kk : Byte)
  /-- 8xy0 `LD Vx, Vy` (41_alu.md R132). -/
  | ldReg (x y : Reg)
  /-- 8xy1 `OR Vx, Vy` (41_alu.md R133). -/
  | orReg (x y : Reg)
  /-- 8xy2 `AND Vx, Vy` (41_alu.md R134). -/
  | andReg (x y : Reg)
  /-- 8xy3 `XOR Vx, Vy` (41_alu.md R135). -/
  | xorReg (x y : Reg)
  /-- 8xy4 `ADD Vx, Vy` with carry flag (41_alu.md R138). -/
  | addReg (x y : Reg)
  /-- 8xy5 `SUB Vx, Vy` (41_alu.md R139). -/
  | subReg (x y : Reg)
  /-- 8xy6 `SHR Vx` (41_alu.md R140); the field `y` selects nothing and is kept (30_encoding.md R89). -/
  | shr (x y : Reg)
  /-- 8xy7 `SUBN Vx, Vy` (41_alu.md R141). -/
  | subnReg (x y : Reg)
  /-- 8xyE `SHL Vx` (41_alu.md R142); the field `y` selects nothing and is kept (30_encoding.md R89). -/
  | shl (x y : Reg)
  /-- 9xy0 `SNE Vx, Vy` (40_flow.md R116). -/
  | sneReg (x y : Reg)
  /-- Annn `LD I, nnn` (42_index_memory.md R160). -/
  | ldI (nnn : BitVec 12)
  /-- Bnnn `JP V0, nnn` (40_flow.md R118). -/
  | jpV0 (nnn : BitVec 12)
  /-- Cxkk `RND Vx, kk` (41_alu.md R143). -/
  | rnd (x : Reg) (kk : Byte)
  /-- Dxyn `DRW Vx, Vy, n` (43_display.md R182); `n` is a count 0 to 15. -/
  | drw (x y : Reg) (n : Fin 16)
  /-- Ex9E `SKP Vx` (44_keys_timers.md R200). -/
  | skp (x : Reg)
  /-- ExA1 `SKNP Vx` (44_keys_timers.md R201). -/
  | sknp (x : Reg)
  /-- Fx07 `LD Vx, DT` (44_keys_timers.md R202). -/
  | ldVxDt (x : Reg)
  /-- Fx0A `LD Vx, K` (44_keys_timers.md R205). -/
  | ldVxK (x : Reg)
  /-- Fx15 `LD DT, Vx` (44_keys_timers.md R203). -/
  | ldDtVx (x : Reg)
  /-- Fx18 `LD ST, Vx` (44_keys_timers.md R204). -/
  | ldStVx (x : Reg)
  /-- Fx1E `ADD I, Vx` (42_index_memory.md R161). -/
  | addI (x : Reg)
  /-- Fx29 `LD F, Vx` (42_index_memory.md R162). -/
  | ldF (x : Reg)
  /-- Fx33 `LD B, Vx` (42_index_memory.md R163). -/
  | ldB (x : Reg)
  /-- Fx55 `LD [I], Vx` (42_index_memory.md R165). -/
  | storeRegs (x : Reg)
  /-- Fx65 `LD Vx, [I]` (42_index_memory.md R166). -/
  | loadRegs (x : Reg)
deriving DecidableEq, Repr

end Sys2Proof
end

