-- ==== Sys2Proof/Decode.lean ====
section
/-! DEFINITION. The fields of an instruction word, the decoder, total on all 65536 words and on any bytes, and the
encoder (30_encoding.md R80 to R91). -/

namespace Sys2Proof

/-- Why bytes or a word are no instruction. Each class of 30_encoding.md R87 has its name; a word of such a class is
an `UNKNOWN` no-operation when it is executed (R86). -/
inductive Undecoded where
  /-- Fewer than two bytes are left. -/
  | tooShort
  /-- `0nnn` other than 00E0 and 00EE. -/
  | family0
  /-- `5xyN` with `N` not 0. -/
  | family5
  /-- `8xyN` with `N` in 8, 9, A, B, C, D, F. -/
  | family8
  /-- `9xyN` with `N` not 0. -/
  | family9
  /-- `ExKK` with `KK` not 9E or A1. -/
  | familyE
  /-- `FxKK` with `KK` not 07 0A 15 18 1E 29 33 55 65. -/
  | familyF
deriving DecidableEq, Repr

/-- `h = op[15:12]`, the major opcode (30_encoding.md R81). -/
def fieldH (op : Word) : Nat := (op.extractLsb' 12 4).toNat

/-- `x = op[11:8]`, a register number (30_encoding.md R81). -/
def fieldX (op : Word) : Reg := (op.extractLsb' 8 4).toFin

/-- `y = op[7:4]`, a register number (30_encoding.md R81). -/
def fieldY (op : Word) : Reg := (op.extractLsb' 4 4).toFin

/-- `n = op[3:0]`, a count or a sub-opcode (30_encoding.md R81). -/
def fieldN (op : Word) : Fin 16 := (op.extractLsb' 0 4).toFin

/-- `kk = op[7:0]`, an immediate byte or a sub-opcode (30_encoding.md R81). -/
def fieldKK (op : Word) : Byte := op.extractLsb' 0 8

/-- `nnn = op[11:0]`, an address (30_encoding.md R81). -/
def fieldNNN (op : Word) : BitVec 12 := op.extractLsb' 0 12

/-- Family `0x0`: the whole word is tested (30_encoding.md R84, R88; log 7). -/
def decodeFamily0 (op : Word) : Except Undecoded Instr :=
  if op = 0x00E0 then .ok .cls else if op = 0x00EE then .ok .ret else .error .family0

/-- Family `0x8`: the low nibble is the sub-opcode (30_encoding.md R84). -/
def decodeFamily8 (op : Word) : Except Undecoded Instr :=
  match (fieldN op).val with
  | 0x0 => .ok (.ldReg (fieldX op) (fieldY op))
  | 0x1 => .ok (.orReg (fieldX op) (fieldY op))
  | 0x2 => .ok (.andReg (fieldX op) (fieldY op))
  | 0x3 => .ok (.xorReg (fieldX op) (fieldY op))
  | 0x4 => .ok (.addReg (fieldX op) (fieldY op))
  | 0x5 => .ok (.subReg (fieldX op) (fieldY op))
  | 0x6 => .ok (.shr (fieldX op) (fieldY op))
  | 0x7 => .ok (.subnReg (fieldX op) (fieldY op))
  | 0xE => .ok (.shl (fieldX op) (fieldY op))
  | _ => .error .family8

/-- Family `0xE`: the low byte is the sub-opcode (30_encoding.md R84). -/
def decodeFamilyE (op : Word) : Except Undecoded Instr :=
  match (fieldKK op).toNat with
  | 0x9E => .ok (.skp (fieldX op))
  | 0xA1 => .ok (.sknp (fieldX op))
  | _ => .error .familyE

/-- Family `0xF`: the low byte is the sub-opcode (30_encoding.md R84). -/
def decodeFamilyF (op : Word) : Except Undecoded Instr :=
  match (fieldKK op).toNat with
  | 0x07 => .ok (.ldVxDt (fieldX op))
  | 0x0A => .ok (.ldVxK (fieldX op))
  | 0x15 => .ok (.ldDtVx (fieldX op))
  | 0x18 => .ok (.ldStVx (fieldX op))
  | 0x1E => .ok (.addI (fieldX op))
  | 0x29 => .ok (.ldF (fieldX op))
  | 0x33 => .ok (.ldB (fieldX op))
  | 0x55 => .ok (.storeRegs (fieldX op))
  | 0x65 => .ok (.loadRegs (fieldX op))
  | _ => .error .familyF

/-- The decoder of 30_encoding.md R84: by the high nibble first, then by the sub-opcode of the families `0x0`, `0x5`,
`0x8`, `0x9`, `0xE`, `0xF`. The last arm is `h = 0xF`. -/
def decode (op : Word) : Except Undecoded Instr :=
  match fieldH op with
  | 0x0 => decodeFamily0 op
  | 0x1 => .ok (.jp (fieldNNN op))
  | 0x2 => .ok (.call (fieldNNN op))
  | 0x3 => .ok (.seImm (fieldX op) (fieldKK op))
  | 0x4 => .ok (.sneImm (fieldX op) (fieldKK op))
  | 0x5 => if fieldN op = 0 then .ok (.seReg (fieldX op) (fieldY op)) else .error .family5
  | 0x6 => .ok (.ldImm (fieldX op) (fieldKK op))
  | 0x7 => .ok (.addImm (fieldX op) (fieldKK op))
  | 0x8 => decodeFamily8 op
  | 0x9 => if fieldN op = 0 then .ok (.sneReg (fieldX op) (fieldY op)) else .error .family9
  | 0xA => .ok (.ldI (fieldNNN op))
  | 0xB => .ok (.jpV0 (fieldNNN op))
  | 0xC => .ok (.rnd (fieldX op) (fieldKK op))
  | 0xD => .ok (.drw (fieldX op) (fieldY op) (fieldN op))
  | 0xE => decodeFamilyE op
  | _ => decodeFamilyF op

/-- The word of two bytes, big-endian: the byte at the lower address is `op[15:8]` (20_memory.md R54, R56). -/
def wordOfBytes (hi lo : Byte) : Word := hi ++ lo

/-- The byte at the lower address of a word (20_memory.md R56). -/
def highByte (op : Word) : Byte := op.extractLsb' 8 8

/-- The byte at the higher address of a word (20_memory.md R56). -/
def lowByte (op : Word) : Byte := op.extractLsb' 0 8

/-- Decode the front of a list of bytes and return the bytes behind the instruction (30_encoding.md R80: every
instruction is two bytes, big-endian). -/
def decodeBytes : List Byte → Except Undecoded (Instr × List Byte)
  | hi :: lo :: rest => (decode (wordOfBytes hi lo)).map fun i => (i, rest)
  | _ => .error .tooShort

/-- Format NNN: the major opcode, then a 12-bit address (30_encoding.md R82). -/
def formatNNN (h : BitVec 4) (nnn : BitVec 12) : Word := h ++ nnn

/-- Formats XKK and XSS: the major opcode, a register, then a byte (30_encoding.md R82). -/
def formatXKK (h : BitVec 4) (x : Reg) (kk : Byte) : Word := h ++ (BitVec.ofFin x : BitVec 4) ++ kk

/-- Formats XYS and XYN: the major opcode, two registers, then a nibble (30_encoding.md R82). -/
def formatXYN (h : BitVec 4) (x y n : Fin 16) : Word :=
  h ++ (BitVec.ofFin x : BitVec 4) ++ (BitVec.ofFin y : BitVec 4) ++ (BitVec.ofFin n : BitVec 4)

/-- The word of an instruction, from the patterns of 30_encoding.md R85. -/
def encode : Instr → Word
  | .cls => 0x00E0
  | .ret => 0x00EE
  | .jp nnn => formatNNN 0x1 nnn
  | .call nnn => formatNNN 0x2 nnn
  | .seImm x kk => formatXKK 0x3 x kk
  | .sneImm x kk => formatXKK 0x4 x kk
  | .seReg x y => formatXYN 0x5 x y 0x0
  | .ldImm x kk => formatXKK 0x6 x kk
  | .addImm x kk => formatXKK 0x7 x kk
  | .ldReg x y => formatXYN 0x8 x y 0x0
  | .orReg x y => formatXYN 0x8 x y 0x1
  | .andReg x y => formatXYN 0x8 x y 0x2
  | .xorReg x y => formatXYN 0x8 x y 0x3
  | .addReg x y => formatXYN 0x8 x y 0x4
  | .subReg x y => formatXYN 0x8 x y 0x5
  | .shr x y => formatXYN 0x8 x y 0x6
  | .subnReg x y => formatXYN 0x8 x y 0x7
  | .shl x y => formatXYN 0x8 x y 0xE
  | .sneReg x y => formatXYN 0x9 x y 0x0
  | .ldI nnn => formatNNN 0xA nnn
  | .jpV0 nnn => formatNNN 0xB nnn
  | .rnd x kk => formatXKK 0xC x kk
  | .drw x y n => formatXYN 0xD x y n
  | .skp x => formatXKK 0xE x 0x9E
  | .sknp x => formatXKK 0xE x 0xA1
  | .ldVxDt x => formatXKK 0xF x 0x07
  | .ldVxK x => formatXKK 0xF x 0x0A
  | .ldDtVx x => formatXKK 0xF x 0x15
  | .ldStVx x => formatXKK 0xF x 0x18
  | .addI x => formatXKK 0xF x 0x1E
  | .ldF x => formatXKK 0xF x 0x29
  | .ldB x => formatXKK 0xF x 0x33
  | .storeRegs x => formatXKK 0xF x 0x55
  | .loadRegs x => formatXKK 0xF x 0x65

/-- The bytes of an instruction in memory order (20_memory.md R56). -/
def encodeBytes (i : Instr) : List Byte := [highByte (encode i), lowByte (encode i)]

/-- The word whose bits the opcode table numbers: `nbits` bits of `w`, every bit above them 0. -/
def tableWord (nbits w : Nat) : Word := BitVec.ofNat 16 (w % 2 ^ nbits)

/-- The instruction this decoder reads from a row's bits: the word laid out as the hardware stores it, high byte
first, and given to `decodeBytes`. -/
def decodeTableWord (nbits w : Nat) : Option Instr :=
  let op := tableWord nbits w
  match decodeBytes [highByte op, lowByte op] with
  | .ok (i, _) => some i
  | .error _ => none

end Sys2Proof
end

