-- ==== Sys2Proof/Config.lean ====
section
/-! DEFINITION. What is fixed for this hardware (00_scope.md R5), the two parameters the spec leaves OPEN
(92_eei_decisions.md D22, D27), and the reset contents of memory. -/

namespace Sys2Proof

/-- `MEM_SIZE`: bytes of memory, addresses 0x000 to 0xFFF (00_scope.md R5, 20_memory.md R50; log 12). -/
def Config.memSize : Nat := 4096

/-- `LOAD_OFFSET`: first byte of a loaded program, and `pc` after a load (00_scope.md R5, 20_memory.md R62). -/
def Config.loadOffset : Nat := 512

/-- `GLYPH_TABLE`, an OPEN parameter of the spec held at the spec's default: the sixteen 5-byte hexadecimal digits of
20_memory.md R60, which the spec marks as general knowledge. DESIGN CHOICE (log 5), unsafe: a claim about a drawn glyph
rests on these bytes. -/
def Config.glyphTable : List Byte :=
  [0xF0, 0x90, 0x90, 0x90, 0xF0] ++ [0x20, 0x60, 0x20, 0x20, 0x70] ++
  [0xF0, 0x10, 0xF0, 0x80, 0xF0] ++ [0xF0, 0x10, 0xF0, 0x10, 0xF0] ++
  [0x90, 0x90, 0xF0, 0x10, 0x10] ++ [0xF0, 0x80, 0xF0, 0x10, 0xF0] ++
  [0xF0, 0x80, 0xF0, 0x90, 0xF0] ++ [0xF0, 0x10, 0x20, 0x40, 0x40] ++
  [0xF0, 0x90, 0xF0, 0x90, 0xF0] ++ [0xF0, 0x90, 0xF0, 0x10, 0xF0] ++
  [0xF0, 0x90, 0xF0, 0x90, 0x90] ++ [0xE0, 0x90, 0xE0, 0x90, 0xE0] ++
  [0xF0, 0x80, 0x80, 0x80, 0xF0] ++ [0xE0, 0x90, 0x90, 0x90, 0xE0] ++
  [0xF0, 0x80, 0xF0, 0x80, 0xF0] ++ [0xF0, 0x80, 0xF0, 0x80, 0x80]

/-- What a byte of memory holds right after reset, and so what an address the memory list does not name reads as: the
glyph table from address 0 (`GLYPH_BASE`), zero beyond it (10_state.md R39). -/
def Config.resetByte (a : Nat) : Byte := Config.glyphTable.getD a 0

/-- The byte that the outside random source supplies at its `k`-th request. A FREE VALUE: no law on the sequence
(10_state.md R35, 92_eei_decisions.md D22; DESIGN CHOICE, log 4, safe): nothing can evaluate it. -/
opaque Config.randomByte (k : Nat) : Byte

end Sys2Proof
end

