-- ==== Sys2Proof/Machine/State.lean ====
section
/-! DEFINITION. The state of the block as plain data, its faults, its events, and the state after reset
(10_state.md R20, R39; 60_exceptions.md R221, R228). -/

namespace Sys2Proof.Machine

/-- The fatal faults of 60_exceptions.md R221, each with the info it records (R223). A raised fault is a NEXT state whose
run state is `halted` (R224, R225); it becomes the outcome `fault` of a step when a halted block with no event
waiting is asked to go on (log 1). Every one is safe: the machine stops where the spec says it stops. -/
inductive Fault where
  /-- Code 1, `MEM_BOUNDS`: raised by the fetch, `Dxyn`, `Fx33`, `Fx55`, `Fx65` at the lowest address outside memory.
  Safe. -/
  | memBounds (addr : Nat)
  /-- Code 2, `STACK_OVERFLOW`: raised by `2nnn` on a full stack; the value that was to be pushed. Safe. -/
  | stackOverflow (pushed : Word)
  /-- Code 3, `STACK_UNDERFLOW`: raised by `00EE` on an empty stack; its info is 0. Safe. -/
  | stackUnderflow
  /-- Code 4, `KEY_INDEX`: raised by `Ex9E`, `ExA1` when `V[x] > 15`; the value of `V[x]`. The spec's decision D18
  (log 9). Safe. -/
  | keyIndex (value : Byte)
  /-- Code 5, `LOAD_TOO_LARGE`: raised by the event `LoadProgram`; the length of the image. Safe. -/
  | loadTooLarge (length : Nat)
deriving DecidableEq, Repr

/-- Why an instruction has no meaning. No arm of `exec` answers it: every instruction has its meaning. -/
inductive Refusal where
  /-- Raised by no arm of `exec` (it stood for an instruction not yet modelled). Safe. -/
  | notModelled (mnemonic : String)
deriving DecidableEq, Repr

/-- The run state `RS` (10_state.md R34). -/
inductive RunState where
  /-- A step may be taken. -/
  | running
  /-- An `Fx0A` with register field `x` waits for a `KeyDown` event. -/
  | awaitKey (x : Reg)
  /-- A fault was raised; only `Reset` changes any state. -/
  | halted (f : Fault)
deriving DecidableEq, Repr

/-- What the host may do to the block between two instructions (60_exceptions.md R228). Key indices and pixel
coordinates are in range by type: a host delivers no other (70_reset_and_hazards.md R267, 43_display.md R183). -/
inductive Event where
  /-- All state to its reset value (70_reset_and_hazards.md R260). -/
  | reset
  /-- Copy the image to 0x200 and set `pc` (20_memory.md R62). -/
  | loadProgram (bytes : List Byte)
  /-- One instruction cycle (10_state.md R25). -/
  | step
  /-- The key goes down (60_exceptions.md R230). -/
  | keyDown (k : Fin 16)
  /-- The key goes up (60_exceptions.md R231). -/
  | keyUp (k : Fin 16)
  /-- Both timers count down (60_exceptions.md R232). -/
  | timerTick
  /-- The pixel at column `x`, row `y` is read (43_display.md R183). -/
  | pixelQuery (x : Fin 64) (y : Fin 32)
deriving DecidableEq, Repr

/-- Memory: the bytes that differ from the reset contents, by rising address (20_memory.md R50). -/
abbrev Memory := List Host.Cell

/-- The framebuffer: 32 rows of 64 pixels, row 0 at the top, column 0 at the left (10_state.md R33). -/
abbrev Screen := Vector (Vector Bool 64) 32

/-- The complete state of the block (10_state.md R20), then the model's own record of the inputs that are still to
come: the host's events and the bytes of the random source. -/
structure State where
  /-- `V[0..15]`, the general registers; `VF` is `V[15]` (R21). -/
  v : Vector Byte 16
  /-- The program counter (R24). -/
  pc : Word
  /-- The index register `I` (R27). -/
  i : Word
  /-- The delay timer (R28). -/
  dt : Byte
  /-- The sound timer (R28). -/
  st : Byte
  /-- `STACK[0..15]`, the return addresses (R29). -/
  stack : Vector Word 16
  /-- `SP`, the number of stack entries in use, 0 to 16 (R29). -/
  sp : Fin 17
  /-- `MEM[0..4095]` (R20, 20_memory.md R50). -/
  mem : Memory
  /-- `K[0..15]`, the keyboard flags, true when pressed (R32). -/
  keys : Vector Bool 16
  /-- `FB[0..31][0..63]`, the framebuffer (R33). -/
  fb : Screen
  /-- `RS`, the run state (R34). -/
  rs : RunState
  /-- The model's own: host events not yet delivered, oldest first (60_exceptions.md R229; DESIGN CHOICE, log 2). -/
  inbox : List Event
  /-- The model's own: bytes the host has injected for the next requests of the random source (R35; DESIGN CHOICE,
  log 4). -/
  tape : List Byte
  /-- The model's own: how many random bytes have been drawn (R35; DESIGN CHOICE, log 4). -/
  draws : Nat
deriving DecidableEq, Repr

/-- The state after the event `Reset` (10_state.md R39): memory lists nothing, since an address it does not list reads
as its reset contents. The values beyond the registers and the glyph table are the spec's decision D8 (log 6); the
last three fields are the model's own (DESIGN CHOICE, log 2 and log 4). -/
def State.reset : State where
  v := Vector.replicate 16 0
  pc := 0
  i := 0
  dt := 0
  st := 0
  stack := Vector.replicate 16 0
  sp := 0
  mem := []
  keys := Vector.replicate 16 false
  fb := Vector.replicate 32 (Vector.replicate 64 false)
  rs := .running
  inbox := []
  tape := []
  draws := 0

end Sys2Proof.Machine
end

