-- ==== Sys2Proof/Machine/Ops.lean ====
section
/-! DEFINITION. The named operations over registers, `pc`, memory, the call stack and the run state, and the raising
of a fault: ONE shared operation for every instruction, the fetch and the loader. -/

namespace Sys2Proof.Machine

/-! ### One write to one piece of state -/

/-- `pc <- t` (10_state.md R24). -/
def State.setPc (s : State) (t : Word) : State := { s with pc := t }

/-- `I <- a` (10_state.md R27). -/
def State.setI (s : State) (a : Word) : State := { s with i := a }

/-- `DT <- b` (10_state.md R28). -/
def State.setDt (s : State) (b : Byte) : State := { s with dt := b }

/-- `ST <- b` (10_state.md R28). -/
def State.setSt (s : State) (b : Byte) : State := { s with st := b }

/-- The contents of memory (20_memory.md R50). -/
def State.setMem (s : State) (m : Memory) : State := { s with mem := m }

/-- The framebuffer (10_state.md R33). -/
def State.setScreen (s : State) (fb : Screen) : State := { s with fb := fb }

/-- `K[k] <- down` (10_state.md R32). -/
def State.setKey (s : State) (k : Fin 16) (down : Bool) : State := { s with keys := s.keys.set k down }

/-- `RS <- r` (10_state.md R34). -/
def State.setRun (s : State) (r : RunState) : State := { s with rs := r }

/-- The host events still to come (log 2). -/
def State.setInbox (s : State) (rest : List Event) : State := { s with inbox := rest }

/-! ### Faults (60_exceptions.md) -/

/-- The numeric code of a fault (60_exceptions.md R221). -/
def Fault.code : Fault → Nat
  | .memBounds _ => 1
  | .stackOverflow _ => 2
  | .stackUnderflow => 3
  | .keyIndex _ => 4
  | .loadTooLarge _ => 5

/-- The info a fault records (60_exceptions.md R221). -/
def Fault.info : Fault → Nat
  | .memBounds addr => addr
  | .stackOverflow pushed => pushed.toNat
  | .stackUnderflow => 0
  | .keyIndex value => value.toNat
  | .loadTooLarge length => length

/-- `raise F(info)`: `RS <- HALTED(F, info)` and nothing else. Applied to the state the instruction entered with, so
that none of its effects is kept and `pc` stays where the fetch left it (60_exceptions.md R224). There is no return from
it but the event `Reset` (R227). -/
def State.raise (s : State) (f : Fault) : State := s.setRun (.halted f)

/-- All or nothing (20_memory.md R58, 60_exceptions.md R224): the whole effect of an instruction, or the fault raised in
the state `s` it entered with. -/
def State.commit (s : State) : Except Fault State → State
  | .ok t => t
  | .error f => s.raise f

/-! ### Registers and `pc` (10_state.md) -/

/-- `V[x]` (10_state.md R21). -/
def State.getV (s : State) (x : Reg) : Byte := s.v[x]

/-- `V[x] <- b` (10_state.md R21). No register is hardwired. -/
def State.setV (s : State) (x : Reg) (b : Byte) : State := { s with v := s.v.set x b }

/-- The increment of the fetch stage, `pc <- (pc + 2) mod 65536` (10_state.md R25 step 3). -/
def State.advance (s : State) : State := s.setPc (s.pc + 2)

/-- `skip` when the condition holds: `pc <- (pc + 2) mod 65536` once more (10_state.md R26). -/
def State.skipIf (s : State) (c : Bool) : State := if c then s.setPc (s.pc + 2) else s

/-! ### Memory (20_memory.md) -/

/-- `MEM[a]`: the listed byte, or the reset contents where nothing is listed. -/
def Memory.byteAt : Memory → Nat → Byte
  | [], a => Config.resetByte a
  | (b, v) :: rest, a => if b = a then v else Memory.byteAt rest a

/-- Memory with nothing listed at `a`. -/
def Memory.erase (m : Memory) (a : Nat) : Memory := m.filter fun cell => cell.1 != a

/-- Memory with `v` listed at `a`, before the first higher address. -/
def Memory.insert : Memory → Nat → Byte → Memory
  | [], a, v => [(a, v)]
  | (b, u) :: rest, a, v => if a < b then (a, v) :: (b, u) :: rest else (b, u) :: Memory.insert rest a v

/-- `MEM[a] <- v` in the canonical form: a byte equal to the reset contents is not listed. -/
def Memory.setByte (m : Memory) (a : Nat) (v : Byte) : Memory :=
  if v = Config.resetByte a then m.erase a else (m.erase a).insert a v

/-- The canonical form from address `lo` on: addresses strictly rising, inside memory, and no byte equal to its reset
contents. -/
def Memory.wfFrom : Nat → Memory → Bool
  | _, [] => true
  | lo, (a, v) :: rest =>
    decide (lo ≤ a) && decide (a < Config.memSize) && decide (v ≠ Config.resetByte a) && Memory.wfFrom (a + 1) rest

/-- The canonical form of memory, in which equal memories are equal lists. -/
def Memory.wf (m : Memory) : Bool := Memory.wfFrom 0 m

/-- `MemRead(addr, 1)` with its bounds check; `addr` is not reduced to any width (20_memory.md R52, R55). -/
def State.memRead (s : State) (addr : Nat) : Except Fault Byte :=
  if addr < Config.memSize then .ok (s.mem.byteAt addr) else .error (.memBounds addr)

/-- `MemWrite(addr, 1, v)` with its bounds check (20_memory.md R53, R55); every address in range is writable (R61). -/
def State.memWrite (s : State) (addr : Nat) (v : Byte) : Except Fault State :=
  if addr < Config.memSize then .ok (s.setMem (s.mem.setByte addr v)) else .error (.memBounds addr)

/-- `MemRead(addr, 2)`, big-endian, the lower address checked first (20_memory.md R54). -/
def State.memReadWord (s : State) (addr : Nat) : Except Fault Word :=
  match s.memRead addr with
  | .error f => .error f
  | .ok hi =>
    match s.memRead (addr + 1) with
    | .error f => .error f
    | .ok lo => .ok (wordOfBytes hi lo)

/-- `n` single bytes at `addr, addr + 1, ...`: the lowest address outside memory is the one reported (20_memory.md R58,
60_exceptions.md R223). -/
def State.readBytes (s : State) : Nat → Nat → Except Fault (List Byte)
  | _, 0 => .ok []
  | addr, n + 1 =>
    match s.memRead addr with
    | .error f => .error f
    | .ok b => (s.readBytes (addr + 1) n).map (b :: ·)

/-- Single bytes written at `addr, addr + 1, ...`. The lowest address outside memory is the one reported, and a caller
that commits the answer keeps none of the writes before it (20_memory.md R58, 60_exceptions.md R223, R224). -/
def State.writeBytes (s : State) : Nat → List Byte → Except Fault State
  | _, [] => .ok s
  | addr, b :: rest =>
    match s.memWrite addr b with
    | .error f => .error f
    | .ok t => t.writeBytes (addr + 1) rest

/-! ### The call stack (10_state.md R29 to R31) -/

/-- `push(v)`: `STACK[SP] <- v; SP <- SP + 1`, or `STACK_OVERFLOW(v)` when `SP = 16` (10_state.md R30). -/
def State.push (s : State) (v : Word) : Except Fault State :=
  if h : s.sp.val < 16 then
    .ok { s with stack := s.stack.set s.sp.val v, sp := ⟨s.sp.val + 1, by omega⟩ }
  else .error (.stackOverflow v)

/-- `pop()`: `SP <- SP - 1` and the entry there, or `STACK_UNDERFLOW` when `SP = 0`; the entry is not erased
(10_state.md R31, 40_flow.md R110). -/
def State.pop (s : State) : Except Fault (Word × State) :=
  if s.sp.val = 0 then .error .stackUnderflow
  else .ok (s.stack[s.sp.val - 1]'(by omega), { s with sp := ⟨s.sp.val - 1, by omega⟩ })

/-! ### The random source (10_state.md R35) -/

/-- The byte the next `RandomByte()` request returns: the first injected byte, or a free value when the host has
injected none (10_state.md R35; log 4). -/
def State.randomByte (s : State) : Byte :=
  match s.tape with
  | [] => Config.randomByte s.draws
  | b :: _ => b

/-- One byte of the random source is consumed (41_alu.md R143). -/
def State.consumeRandom (s : State) : State := { s with tape := s.tape.tail, draws := s.draws + 1 }

/-! ### Fetch (10_state.md R25) -/

/-- Step 2 of the cycle: the word at `pc`, or `MEM_BOUNDS` of the first bad address. -/
def State.fetch (s : State) : Except Fault Word := s.memReadWord s.pc.toNat

/-- The state in which the very next turn fetches and runs the word `op`: the block running, no event waiting, and the
word's bytes where `pc` points. A `pc` from which no word can be fetched is moved to the load offset (log 3). -/
def State.placeWord (s : State) (op : Word) : State :=
  let pc : Word := if s.pc.toNat + 1 < Config.memSize then s.pc else BitVec.ofNat 16 Config.loadOffset
  { s with
    pc := pc
    rs := .running
    inbox := []
    mem := (s.mem.setByte pc.toNat (highByte op)).setByte (pc.toNat + 1) (lowByte op) }

end Sys2Proof.Machine
end

