-- ==== Sys2Proof/Machine/Flags.lean ====
section
/-! DEFINITION. Every flag computation: the values written to `VF` (10_state.md R22, 41_alu.md R136) and the order of the
two writes (41_alu.md R137). -/

namespace Sys2Proof.Machine

/-- `VF`, the sixteenth general register (10_state.md R21, R22). -/
def flagReg : Reg := 15

/-- A condition as the flag value 1 or 0 (10_state.md R22). -/
def flagOf (c : Bool) : Byte := if c then 1 else 0

/-- The carry of `8xy4`: 1 when the exact sum is above 255 (41_alu.md R138). -/
def carryFlag (a b : Byte) : Byte := flagOf (decide (a.toNat + b.toNat > 255))

/-- No borrow, strictly: 1 when the minuend is greater than the subtrahend (41_alu.md R139, R141). -/
def noBorrowFlag (minuend subtrahend : Byte) : Byte := flagOf (decide (minuend.toNat > subtrahend.toNat))

/-- The bit that a right shift by one shifts out (41_alu.md R140). -/
def lowBitFlag (a : Byte) : Byte := a &&& 1

/-- The bit that a left shift by one shifts out, as 0 or 1 (41_alu.md R142). -/
def highBitFlag (a : Byte) : Byte := flagOf (decide (a &&& 0x80 ≠ 0))

/-- `VF <- flag`, then `V[x] <- result`: with `x = 0xF` the result is what remains (41_alu.md R137; log 8). -/
def State.setFlagThen (s : State) (flag : Byte) (x : Reg) (result : Byte) : State :=
  (s.setV flagReg flag).setV x result

end Sys2Proof.Machine
end

