-- ==== Sys2Proof/Machine/Operands.lean ====
section
/-! DEFINITION. The operand forms of the instructions: immediates, jump targets, the index register as an address, the
register block of `Fx55` and `Fx65`, decimal digits, and the key that a register selects. -/

namespace Sys2Proof.Machine

/-- `zext_16(nnn)`: a 12-bit address as a 16-bit value (30_encoding.md R83). -/
def addressOf (nnn : BitVec 12) : Word := nnn.zeroExtend 16

/-- `zext_16(V[x])` (00_scope.md R8). -/
def State.getV16 (s : State) (x : Reg) : Word := (s.getV x).zeroExtend 16

/-- The base address of a data access: `I` as an integer, wrapped to no width (20_memory.md R55, 42_index_memory.md
R164). -/
def State.base (s : State) : Nat := s.i.toNat

/-- The registers `V0` to `Vx`, inclusive (30_encoding.md R83, 42_index_memory.md R165). -/
def registersTo (x : Reg) : List Reg := (List.finRange 16).take (x.val + 1)

/-- The values of `V0` to `Vx`, the bytes that `Fx55` stores (42_index_memory.md R165). -/
def State.registerBlock (s : State) (x : Reg) : List Byte := (registersTo x).map s.getV

/-- `V[i] <- bytes[i]` for every `i` that `bytes` reaches; the registers above are unchanged (42_index_memory.md
R166). -/
def State.loadBlock (s : State) (bytes : List Byte) : State :=
  { s with v := Vector.ofFn fun r : Fin 16 => bytes.getD r.val s.v[r] }

/-- The hundreds, tens and units digits of a byte (42_index_memory.md R163). -/
def decimalDigits (b : Byte) : List Byte := [b / 100, (b / 10) % 10, b % 10]

/-- The number of pixel rows or bytes that the field `n` of `Dxyn` gives (43_display.md R182). -/
def spriteHeight (n : Fin 16) : Nat := n.val

/-- The key that the value of `V[x]` names, or `KEY_INDEX` when there is none (44_keys_timers.md R200, R201; log 9). -/
def State.keyOf (s : State) (x : Reg) : Except Fault (Fin 16) :=
  if h : (s.getV x).toNat < 16 then .ok ⟨(s.getV x).toNat, h⟩ else .error (.keyIndex (s.getV x))

end Sys2Proof.Machine
end

