-- ==== Sys2Proof/Machine/Alu.lean ====
section
/-! DEFINITION. Register load, arithmetic, logic and random instructions (41_alu.md). None can fault. -/

namespace Sys2Proof.Machine

/-- 6xkk `LD Vx, kk` (41_alu.md R130). -/
def execLdImm (x : Reg) (kk : Byte) (s : State) : Host.Outcome State Fault Refusal :=
  .next (s.setV x kk)

/-- 7xkk `ADD Vx, kk`: wraps, writes no flag (41_alu.md R131). -/
def execAddImm (x : Reg) (kk : Byte) (s : State) : Host.Outcome State Fault Refusal :=
  .next (s.setV x (s.getV x + kk))

/-- 8xy0 `LD Vx, Vy` (41_alu.md R132). -/
def execLdReg (x y : Reg) (s : State) : Host.Outcome State Fault Refusal :=
  .next (s.setV x (s.getV y))

/-- 8xy1 `OR Vx, Vy` (41_alu.md R133). -/
def execOrReg (x y : Reg) (s : State) : Host.Outcome State Fault Refusal :=
  .next (s.setV x (s.getV x ||| s.getV y))

/-- 8xy2 `AND Vx, Vy` (41_alu.md R134). -/
def execAndReg (x y : Reg) (s : State) : Host.Outcome State Fault Refusal :=
  .next (s.setV x (s.getV x &&& s.getV y))

/-- 8xy3 `XOR Vx, Vy` (41_alu.md R135). -/
def execXorReg (x y : Reg) (s : State) : Host.Outcome State Fault Refusal :=
  .next (s.setV x (s.getV x ^^^ s.getV y))

/-- 8xy4 `ADD Vx, Vy` (41_alu.md R138). -/
def execAddReg (x y : Reg) (s : State) : Host.Outcome State Fault Refusal :=
  .next (s.setFlagThen (carryFlag (s.getV x) (s.getV y)) x (s.getV x + s.getV y))

/-- 8xy5 `SUB Vx, Vy` (41_alu.md R139). -/
def execSubReg (x y : Reg) (s : State) : Host.Outcome State Fault Refusal :=
  .next (s.setFlagThen (noBorrowFlag (s.getV x) (s.getV y)) x (s.getV x - s.getV y))

/-- 8xy6 `SHR Vx`: in place, `V[y]` neither read nor written (41_alu.md R140, 30_encoding.md R89). -/
def execShr (x _y : Reg) (s : State) : Host.Outcome State Fault Refusal :=
  .next (s.setFlagThen (lowBitFlag (s.getV x)) x (s.getV x >>> 1))

/-- 8xy7 `SUBN Vx, Vy` (41_alu.md R141). -/
def execSubnReg (x y : Reg) (s : State) : Host.Outcome State Fault Refusal :=
  .next (s.setFlagThen (noBorrowFlag (s.getV y) (s.getV x)) x (s.getV y - s.getV x))

/-- 8xyE `SHL Vx`: in place, `V[y]` neither read nor written (41_alu.md R142, 30_encoding.md R89). -/
def execShl (x _y : Reg) (s : State) : Host.Outcome State Fault Refusal :=
  .next (s.setFlagThen (highBitFlag (s.getV x)) x (s.getV x <<< 1))

/-- Cxkk `RND Vx, kk`: one random byte is consumed, also when `kk = 0` (41_alu.md R143). -/
def execRnd (x : Reg) (kk : Byte) (s : State) : Host.Outcome State Fault Refusal :=
  .next (s.consumeRandom.setV x (s.randomByte &&& kk))

end Sys2Proof.Machine
end

