-- ==== Sys2Proof/Machine/Screen.lean ====
section
/-! DEFINITION. The framebuffer operations: reading, flipping and clearing pixels, and the XOR sprite blitter with
wrap-around and collision detection (43_display.md R180 to R183). -/

namespace Sys2Proof.Machine

/-- `FB[r][c]` (10_state.md R33). -/
def Screen.pixel (fb : Screen) (r : Fin 32) (c : Fin 64) : Bool := fb[r][c]

/-- `FB[r][c] <- FB[r][c] ^ 1` (43_display.md R181). -/
def Screen.flip (fb : Screen) (r : Fin 32) (c : Fin 64) : Screen := fb.set r (fb[r].set c (!fb[r][c]))

/-- The framebuffer with every pixel off (43_display.md R180). -/
def Screen.clear : Screen := Vector.replicate 32 (Vector.replicate 64 false)

/-- The row `(y0 + row) mod 32` (43_display.md R181). -/
def wrapRow (n : Nat) : Fin 32 := ⟨n % 32, Nat.mod_lt _ (by decide)⟩

/-- The column `(x0 + col) mod 64` (43_display.md R181). -/
def wrapCol (n : Nat) : Fin 64 := ⟨n % 64, Nat.mod_lt _ (by decide)⟩

/-- `(byte >> (7 - col)) & 1`: bit 7 is the leftmost pixel (43_display.md R181; the spec's decision D16, log 11). -/
def spriteBit (b : Byte) (col : Nat) : Bool := b.getLsbD (7 - col)

/-- What a draw has done so far: the framebuffer, and whether any pixel went from on to off. -/
structure Drawing where
  fb : Screen
  collision : Bool
deriving DecidableEq, Repr

/-- One pixel of the sprite: a 1 bit flips its pixel and collides when the pixel was on; a 0 bit does nothing
(43_display.md R181). -/
def drawBit (x0 y0 row : Nat) (b : Byte) (d : Drawing) (col : Nat) : Drawing :=
  if spriteBit b col then
    { fb := d.fb.flip (wrapRow (y0 + row)) (wrapCol (x0 + col))
      collision := d.collision || d.fb.pixel (wrapRow (y0 + row)) (wrapCol (x0 + col)) }
  else d

/-- One line of the sprite, columns 0 to 7 (43_display.md R181). -/
def drawRow (x0 y0 row : Nat) (b : Byte) (d : Drawing) : Drawing :=
  (List.range 8).foldl (drawBit x0 y0 row b) d

/-- The lines of the sprite from line `row` on, top line first (43_display.md R181). -/
def drawRows (x0 y0 : Nat) : Nat → List Byte → Drawing → Drawing
  | _, [], d => d
  | row, b :: rest, d => drawRows x0 y0 (row + 1) rest (drawRow x0 y0 row b d)

/-- The blitter: the sprite XORed onto the framebuffer at origin `(x0, y0)` (43_display.md R181). -/
def blit (fb : Screen) (x0 y0 : Nat) (bytes : List Byte) : Drawing :=
  drawRows x0 y0 0 bytes { fb := fb, collision := false }

end Sys2Proof.Machine
end

