-- ==== Sys2Proof/Machine/Display.lean ====
section
/-! DEFINITION. The display instructions (43_display.md). -/

namespace Sys2Proof.Machine

/-- 00E0 `CLS` (43_display.md R180). -/
def execCls (s : State) : Host.Outcome State Fault Refusal :=
  .next (s.setScreen Screen.clear)

/-- The effect of a draw once its bytes are read: the framebuffer, then `VF` (43_display.md R182). -/
def State.draw (s : State) (x y : Reg) (bytes : List Byte) : State :=
  let d := blit s.fb (s.getV x).toNat (s.getV y).toNat bytes
  (s.setScreen d.fb).setV flagReg (flagOf d.collision)

/-- Dxyn `DRW Vx, Vy, n`: all sprite bytes are read, or the fault raised, before a pixel changes (43_display.md R182). -/
def execDrw (x y : Reg) (n : Fin 16) (s : State) : Host.Outcome State Fault Refusal :=
  .next (s.commit ((s.readBytes s.base (spriteHeight n)).map fun bytes => s.draw x y bytes))

end Sys2Proof.Machine
end

