-- ==== Sys2Proof/Machine/Flow.lean ====
section
/-! DEFINITION. Control transfer (40_flow.md): in every meaning `pc` is already past the instruction (10_state.md R25). -/

namespace Sys2Proof.Machine

/-- 00EE `RET` (40_flow.md R110). -/
def execRet (s : State) : Host.Outcome State Fault Refusal :=
  .next (s.commit (s.pop.map fun p => p.2.setPc p.1))

/-- 1nnn `JP nnn` (40_flow.md R111). -/
def execJp (nnn : BitVec 12) (s : State) : Host.Outcome State Fault Refusal :=
  .next (s.setPc (addressOf nnn))

/-- 2nnn `CALL nnn` (40_flow.md R112). -/
def execCall (nnn : BitVec 12) (s : State) : Host.Outcome State Fault Refusal :=
  .next (s.commit ((s.push s.pc).map fun t => t.setPc (addressOf nnn)))

/-- 3xkk `SE Vx, kk` (40_flow.md R113). -/
def execSeImm (x : Reg) (kk : Byte) (s : State) : Host.Outcome State Fault Refusal :=
  .next (s.skipIf (s.getV x == kk))

/-- 4xkk `SNE Vx, kk` (40_flow.md R114). -/
def execSneImm (x : Reg) (kk : Byte) (s : State) : Host.Outcome State Fault Refusal :=
  .next (s.skipIf (s.getV x != kk))

/-- 5xy0 `SE Vx, Vy` (40_flow.md R115). -/
def execSeReg (x y : Reg) (s : State) : Host.Outcome State Fault Refusal :=
  .next (s.skipIf (s.getV x == s.getV y))

/-- 9xy0 `SNE Vx, Vy` (40_flow.md R116). -/
def execSneReg (x y : Reg) (s : State) : Host.Outcome State Fault Refusal :=
  .next (s.skipIf (s.getV x != s.getV y))

/-- Bnnn `JP V0, nnn`: the sum is not reduced to 12 bits (40_flow.md R118). -/
def execJpV0 (nnn : BitVec 12) (s : State) : Host.Outcome State Fault Refusal :=
  .next (s.setPc (addressOf nnn + s.getV16 0))

end Sys2Proof.Machine
end

