-- ==== Sys2Proof/Machine/IndexMemory.lean ====
section
/-! DEFINITION. Index register, loads and stores (42_index_memory.md). -/

namespace Sys2Proof.Machine

/-- Annn `LD I, nnn` (42_index_memory.md R160). -/
def execLdI (nnn : BitVec 12) (s : State) : Host.Outcome State Fault Refusal :=
  .next (s.setI (addressOf nnn))

/-- Fx1E `ADD I, Vx`: modulo 65536, no flag (42_index_memory.md R161). -/
def execAddI (x : Reg) (s : State) : Host.Outcome State Fault Refusal :=
  .next (s.setI (s.i + s.getV16 x))

/-- Fx29 `LD F, Vx`: the whole byte times the glyph height 5 (42_index_memory.md R162). -/
def execLdF (x : Reg) (s : State) : Host.Outcome State Fault Refusal :=
  .next (s.setI (s.getV16 x * 5))

/-- Fx33 `LD B, Vx`: three digits at `I`, `I + 1`, `I + 2`, all or none (42_index_memory.md R163). -/
def execLdB (x : Reg) (s : State) : Host.Outcome State Fault Refusal :=
  .next (s.commit (s.writeBytes s.base (decimalDigits (s.getV x))))

/-- Fx55 `LD [I], Vx`: `V0` to `Vx` at `I` to `I + x`, all or none; `I` is unchanged (42_index_memory.md R165). -/
def execStoreRegs (x : Reg) (s : State) : Host.Outcome State Fault Refusal :=
  .next (s.commit (s.writeBytes s.base (s.registerBlock x)))

/-- Fx65 `LD Vx, [I]`: the bytes at `I` to `I + x` into `V0` to `Vx`, all or none; `I` is unchanged (42_index_memory.md
R166). -/
def execLoadRegs (x : Reg) (s : State) : Host.Outcome State Fault Refusal :=
  .next (s.commit ((s.readBytes s.base (x.val + 1)).map fun bytes => s.loadBlock bytes))

end Sys2Proof.Machine
end

