-- ==== Sys2Proof/Machine/KeysTimers.lean ====
section
/-! DEFINITION. Keyboard, timer and wait instructions (44_keys_timers.md). -/

namespace Sys2Proof.Machine

/-- Ex9E `SKP Vx` (44_keys_timers.md R200). -/
def execSkp (x : Reg) (s : State) : Host.Outcome State Fault Refusal :=
  .next (s.commit ((s.keyOf x).map fun k => s.skipIf s.keys[k]))

/-- ExA1 `SKNP Vx` (44_keys_timers.md R201). -/
def execSknp (x : Reg) (s : State) : Host.Outcome State Fault Refusal :=
  .next (s.commit ((s.keyOf x).map fun k => s.skipIf (!s.keys[k])))

/-- Fx07 `LD Vx, DT` (44_keys_timers.md R202). -/
def execLdVxDt (x : Reg) (s : State) : Host.Outcome State Fault Refusal :=
  .next (s.setV x s.dt)

/-- Fx0A `LD Vx, K`, its first half: the block waits for a `KeyDown` event (44_keys_timers.md R205). The second half is
State.keyDown. -/
def execLdVxK (x : Reg) (s : State) : Host.Outcome State Fault Refusal :=
  .next (s.setRun (.awaitKey x))

/-- Fx15 `LD DT, Vx` (44_keys_timers.md R203). -/
def execLdDtVx (x : Reg) (s : State) : Host.Outcome State Fault Refusal :=
  .next (s.setDt (s.getV x))

/-- Fx18 `LD ST, Vx` (44_keys_timers.md R204). -/
def execLdStVx (x : Reg) (s : State) : Host.Outcome State Fault Refusal :=
  .next (s.setSt (s.getV x))

end Sys2Proof.Machine
end

