-- ==== Sys2Proof/Machine/Events.lean ====
section
/-! DEFINITION. The instruction cycle (10_state.md R25), the events of the host (60_exceptions.md R228 to R232), and one
turn of the block: the next event, or a step when none waits. -/

namespace Sys2Proof.Machine

/-- The instruction cycle of a running block: fetch, advance, execute. A fetch fault leaves `pc` where it was; an
`UNKNOWN` word only advances `pc` (10_state.md R25, 30_encoding.md R86). -/
def State.cycle (s : State) : Host.Outcome State Fault Refusal :=
  match s.fetch with
  | .error f => .next (s.raise f)
  | .ok op =>
    match decode op with
    | .ok i => exec i s.advance
    | .error _ => .next s.advance

/-- When the block accepts an event: the column "accepted when" of 60_exceptions.md R228. -/
def State.accepts (s : State) : Event → Bool
  | .reset => true
  | .loadProgram _ => match s.rs with | .halted _ => false | _ => true
  | .step => match s.rs with | .running => true | _ => false
  | .keyDown _ => match s.rs with | .halted _ => false | _ => true
  | .keyUp _ => match s.rs with | .halted _ => false | _ => true
  | .timerTick => match s.rs with | .running => true | _ => false
  | .pixelQuery _ _ => true

/-- `Reset`: every piece of the block's state to its reset value (70_reset_and_hazards.md R260). The inputs that are
still to come are the host's and stay. -/
def State.resetEvent (s : State) : State :=
  { State.reset with inbox := s.inbox, tape := s.tape, draws := s.draws }

/-- `LoadProgram(bytes)`: the image at 0x200 and `pc <- 0x200`, or `LOAD_TOO_LARGE` with nothing copied (20_memory.md R62;
log 13). -/
def State.loadProgram (s : State) (bytes : List Byte) : State :=
  if Config.loadOffset + bytes.length > Config.memSize then s.raise (.loadTooLarge bytes.length)
  else s.commit ((s.writeBytes Config.loadOffset bytes).map fun t => t.setPc (BitVec.ofNat 16 Config.loadOffset))

/-- `KeyDown(k)`: `K[k] <- 1`, and the end of a key wait: `V[x] <- k; RS <- RUNNING` (60_exceptions.md R230,
44_keys_timers.md R205; log 10). -/
def State.keyDown (s : State) (k : Fin 16) : State :=
  match s.rs with
  | .awaitKey x => ((s.setKey k true).setV x (BitVec.ofNat 8 k.val)).setRun .running
  | _ => s.setKey k true

/-- `KeyUp(k)`: `K[k] <- 0` (60_exceptions.md R231). -/
def State.keyUp (s : State) (k : Fin 16) : State := s.setKey k false

/-- A timer one tick later: it never goes below zero (60_exceptions.md R232). -/
def countDown (t : Byte) : Byte := if t = 0 then 0 else t - 1

/-- `TimerTick`: both timers in the same event (60_exceptions.md R232). -/
def State.timerTick (s : State) : State :=
  (s.setDt (countDown s.dt)).setSt (countDown s.st)

/-- `PixelQuery(x, y)`: the answer is `FB[y][x]`, and nothing changes (43_display.md R183). -/
def State.pixelQuery (s : State) (x : Fin 64) (y : Fin 32) : Bool := s.fb.pixel y x

/-- What the block answers the host at an event. -/
inductive Response where
  /-- The block does not accept the event in its run state; nothing changes. -/
  | notAccepted
  /-- The event is applied. -/
  | done
  /-- The pixel asked for (43_display.md R183). -/
  | pixel (on : Bool)
deriving DecidableEq, Repr

/-- The answer to an event (60_exceptions.md R228). -/
def State.respond (s : State) (e : Event) : Response :=
  if s.accepts e then
    match e with
    | .pixelQuery x y => .pixel (s.pixelQuery x y)
    | _ => .done
  else .notAccepted

/-- One event applied atomically (60_exceptions.md R229). An event the run state does not accept changes nothing
(60_exceptions.md R225, R228; log 2). -/
def State.serve (s : State) (e : Event) : Host.Outcome State Fault Refusal :=
  if s.accepts e then
    match e with
    | .reset => .next s.resetEvent
    | .loadProgram bytes => .next (s.loadProgram bytes)
    | .step => s.cycle
    | .keyDown k => .next (s.keyDown k)
    | .keyUp k => .next (s.keyUp k)
    | .timerTick => .next s.timerTick
    | .pixelQuery _ _ => .next s
  else .next s

/-- One turn of the block. With an event waiting, the oldest is delivered. With none, the block steps by itself
(60_exceptions.md R228: "A model may equally let the block step by itself"); in a key wait nothing happens (R205 case
(g): a hang, not a fault), and a halted block answers its fault (R225: "A model should give a fault its own outcome";
log 1). -/
def State.turn (s : State) : Host.Outcome State Fault Refusal :=
  match s.inbox with
  | e :: rest => (s.setInbox rest).serve e
  | [] =>
    match s.rs with
    | .halted f => .fault f
    | _ => s.serve .step

end Sys2Proof.Machine
end

