-- ==== Sys2Proof/Machine/Step.lean ====
section
/-! DEFINITION. One step of the model, and the placing of an instruction where the next step fetches it. -/

namespace Sys2Proof.Machine

/-- One turn of the block: the oldest waiting event, or an instruction cycle (10_state.md R25, 60_exceptions.md R228,
R229; log 2). -/
def step (s : State) : Host.Outcome State Fault Refusal := s.turn

/-- `s` with the table word `w` where `step` fetches its next instruction (log 3). -/
def State.withFetchWord (s : State) (nbits w : Nat) : State := s.placeWord (tableWord nbits w)

end Sys2Proof.Machine
end

