-- ==== Sys2Proof/Safety.lean ====
section
/-! DEFINITION. The terms the claims are stated in: the parts of the state and what it means that a part is unchanged,
the closed form of a sprite, which instructions write which part, and the invariants. -/

namespace Sys2Proof.Machine

/-! ### Frames -/

/-- A part of the state: one register, one byte, one pixel, one flag (10_state.md R20), or one of the model's own
inputs (log 2, log 4). -/
inductive Part where
  | v (r : Reg)
  | pc
  | i
  | dt
  | st
  | stackEntry (k : Fin 16)
  | sp
  | mem (a : Nat)
  | key (k : Fin 16)
  | pixel (r : Fin 32) (c : Fin 64)
  | rs
  | inbox
  | tape
  | draws
deriving DecidableEq, Repr

/-- The part reads the same in `t` as in `s`. -/
def Same (s t : State) : Part → Prop
  | .v r => t.getV r = s.getV r
  | .pc => t.pc = s.pc
  | .i => t.i = s.i
  | .dt => t.dt = s.dt
  | .st => t.st = s.st
  | .stackEntry k => t.stack[k] = s.stack[k]
  | .sp => t.sp = s.sp
  | .mem a => t.mem.byteAt a = s.mem.byteAt a
  | .key k => t.keys[k] = s.keys[k]
  | .pixel r c => t.fb.pixel r c = s.fb.pixel r c
  | .rs => t.rs = s.rs
  | .inbox => t.inbox = s.inbox
  | .tape => t.tape = s.tape
  | .draws => t.draws = s.draws

/-- The frame: from `s` to `t` every part is unchanged but those that `changed` names. -/
def UnchangedBut (changed : Part → Prop) (s t : State) : Prop := ∀ p, ¬ changed p → Same s t p

/-- The `len` bytes of memory from `base` on. -/
def memRange (base len : Nat) (p : Part) : Prop := ∃ k, k < len ∧ p = .mem (base + k)

/-- Any pixel. -/
def anyPixel (p : Part) : Prop := ∃ r c, p = .pixel r c

/-- The model's own inputs: the events and random bytes still to come (log 2, log 4). -/
def hostInput (p : Part) : Prop := p = .inbox ∨ p = .tape ∨ p = .draws

/-- A raised fault: the run state says so, and every other part is as it was (60_exceptions.md R224). -/
def RaisedFrom (s t : State) (f : Fault) : Prop := t.rs = .halted f ∧ UnchangedBut (· = .rs) s t

/-! ### The sprite in closed form -/

/-- Whether a sprite of these bytes at origin `(x0, y0)` has a 1 bit at pixel `(r, c)`: the pixel's distance from the
origin, around the edges, lies inside the sprite and the bit there is 1 (43_display.md R181). -/
def spriteOn (x0 y0 : Nat) (bytes : List Byte) (r : Fin 32) (c : Fin 64) : Bool :=
  let row := (r.val + 32 - y0 % 32) % 32
  let col := (c.val + 64 - x0 % 64) % 64
  decide (row < bytes.length) && decide (col < 8) && spriteBit (bytes.getD row 0) col

/-- The `n` bytes of memory from `I` on (43_display.md R182). -/
def spriteBytes (s : State) (n : Fin 16) : List Byte := (List.range n.val).map fun k => s.mem.byteAt (s.base + k)

/-! ### Classes of instructions -/

/-- The instructions that write `VF` as a flag (10_state.md R22). -/
def flagWriter : Instr → Bool
  | .addReg _ _ | .subReg _ _ | .shr _ _ | .subnReg _ _ | .shl _ _ | .drw _ _ _ => true
  | _ => false

/-- The instruction writes register `r` as its destination (10_state.md R22). -/
def destination (r : Reg) : Instr → Bool
  | .ldImm x _ | .addImm x _ | .rnd x _ | .ldVxDt x => x == r
  | .ldReg x _ | .orReg x _ | .andReg x _ | .xorReg x _ => x == r
  | .addReg x _ | .subReg x _ | .shr x _ | .subnReg x _ | .shl x _ => x == r
  | .loadRegs x => decide (r ≤ x)
  | _ => false

/-- The faults an instruction can raise in execute, exhaustively (60_exceptions.md R222). -/
def mayRaise : Instr → Fault → Bool
  | .ret, .stackUnderflow => true
  | .call _, .stackOverflow _ => true
  | .drw _ _ _, .memBounds _ => true
  | .ldB _, .memBounds _ => true
  | .storeRegs _, .memBounds _ => true
  | .loadRegs _, .memBounds _ => true
  | .skp _, .keyIndex _ => true
  | .sknp _, .keyIndex _ => true
  | _, _ => false

/-! ### Invariants -/

/-- Memory is in its canonical form (20_memory.md R50). -/
def MemCanonical (s : State) : Prop := s.mem.wf = true

/-- `pc` is at most 0x10FE, the largest `Bnnn` target, and every return address in use is at most 0x1000 (10_state.md
R26, 40_flow.md R110). -/
def ControlInRange (s : State) : Prop :=
  s.pc.toNat ≤ 0x10FE ∧ ∀ k : Fin 16, k.val < s.sp.val → (s.stack[k]).toNat ≤ 0x1000

/-- What the state of a halted block shows of its fault: the condition of 60_exceptions.md R221 still holds in it. An address
outside memory is the first bad one of a fetch at `pc`, or of at most 16 bytes from `I` on (R223). -/
def HaltExplained (s : State) : Prop :=
  match s.rs with
  | .halted (.memBounds addr) =>
    (0xFFF ≤ s.pc.toNat ∧ addr = max s.pc.toNat 0x1000) ∨ (0xFF1 ≤ s.i.toNat ∧ addr = max s.i.toNat 0x1000)
  | .halted (.stackOverflow pushed) => s.sp.val = 16 ∧ pushed = s.pc
  | .halted .stackUnderflow => s.sp.val = 0
  | .halted (.keyIndex value) => 15 < value.toNat ∧ ∃ x, s.getV x = value
  | .halted (.loadTooLarge length) => 3584 < length
  | _ => True

/-- A state in which no fault has been raised (60_exceptions.md R225). -/
def Safe (s : State) : Prop := ∀ f, s.rs ≠ .halted f

end Sys2Proof.Machine
end

