-- ==== Sys2Proof/Certificates/Slice0/Obligations.lean ====
section
/-! DEFINITION. The statements for the provers. In every statement about `exec i s` the state `s` is the one the fetch
stage hands over, so `s.pc` is already past the instruction (10_state.md R25). -/

open Sys2Proof Sys2Proof.Machine

/-! ### Encoding -/

/-- Words written out from the patterns of 30_encoding.md R85, one or more of every file of instructions. -/
def Obligations.SampleWordsDecode : Prop :=
  decode 0x00E0 = .ok .cls ∧ decode 0x00EE = .ok .ret ∧ decode 0x1ABC = .ok (.jp 0xABC) ∧
  decode 0x2ABC = .ok (.call 0xABC) ∧ decode 0x3142 = .ok (.seImm 1 0x42) ∧ decode 0x9120 = .ok (.sneReg 1 2) ∧
  decode 0x6AFF = .ok (.ldImm 0xA 0xFF) ∧ decode 0x8125 = .ok (.subReg 1 2) ∧ decode 0x8FAE = .ok (.shl 0xF 0xA) ∧
  decode 0xA300 = .ok (.ldI 0x300) ∧ decode 0xF265 = .ok (.loadRegs 2) ∧ decode 0xF133 = .ok (.ldB 1) ∧
  decode 0xD125 = .ok (.drw 1 2 5) ∧ decode 0xE19E = .ok (.skp 1) ∧ decode 0xF20A = .ok (.ldVxK 2)

/-- No bit of an encoding is dropped: every instruction, with every operand, is read back from its word, and from its two
big-endian bytes in front of any others, which are left (30_encoding.md R80, R81, R85, 20_memory.md R56). -/
def Obligations.DecodeInvertsEncode : Prop :=
  (∀ i : Instr, decode (encode i) = .ok i) ∧
  ∀ (i : Instr) (rest : List Byte), decodeBytes (encodeBytes i ++ rest) = .ok (i, rest)

/-- Each word has one meaning: what a word decodes to is encoded as that word (30_encoding.md R81, R85). -/
def Obligations.EncodeInvertsDecode : Prop := ∀ (op : Word) (i : Instr), decode op = .ok i → encode i = op

/-- The dispatching decoder and the mask-and-match table are the same decoder: a word decodes to an instruction whose row is in
the table, fits it and is the only row that does, and a word that decodes to none fits no row (30_encoding.md R84, R85). The
strict reading of the fixed digits is the spec's decision D9 (log 7). -/
def Obligations.DecodeAgreesWithOpcodeMap : Prop :=
  ∀ op : Word,
    (∀ i, decode op = .ok i →
      i.row ∈ opcodeMap ∧ i.row.fits op = true ∧ ∀ r ∈ opcodeMap, r.fits op = true → r = i.row) ∧
    (∀ c, decode op = .error c → wellFormedWord op = false)

/-- The `UNKNOWN` words, all of them, class by class (30_encoding.md R87, an inference the spec marks as its own; the strict
reading is the spec's decision D9, log 7). -/
def Obligations.UnknownWordsByClass : Prop :=
  ∀ op : Word,
    (decode op = .error .family0 ↔ op.toNat < 0x1000 ∧ op.toNat ≠ 0x00E0 ∧ op.toNat ≠ 0x00EE) ∧
    (decode op = .error .family5 ↔ op.toNat / 0x1000 = 5 ∧ op.toNat % 16 ≠ 0) ∧
    (decode op = .error .family8 ↔ op.toNat / 0x1000 = 8 ∧ op.toNat % 16 ∈ [8, 9, 0xA, 0xB, 0xC, 0xD, 0xF]) ∧
    (decode op = .error .family9 ↔ op.toNat / 0x1000 = 9 ∧ op.toNat % 16 ≠ 0) ∧
    (decode op = .error .familyE ↔ op.toNat / 0x1000 = 0xE ∧ op.toNat % 256 ∉ [0x9E, 0xA1]) ∧
    (decode op = .error .familyF ↔
      op.toNat / 0x1000 = 0xF ∧ op.toNat % 256 ∉ [0x07, 0x0A, 0x15, 0x18, 0x1E, 0x29, 0x33, 0x55, 0x65]) ∧
    decode op ≠ .error .tooShort

/-! ### The step -/

/-- A running block with no event waiting, or with a `Step` waiting first, runs the instruction whose two bytes are at
`pc`, `pc` already past them (10_state.md R25; that the fetch is the block's is the spec's decision D1, and the waiting
events are the model's, log 2). -/
def Obligations.StepRunsTheDecodedInstruction : Prop :=
  ∀ (s : State) (i : Instr) (rest : List Event),
    s.rs = .running → s.pc.toNat ≤ 0xFFE →
    decode (wordOfBytes (s.mem.byteAt s.pc.toNat) (s.mem.byteAt (s.pc.toNat + 1))) = .ok i →
    (s.inbox = [] → step s = exec i { s with pc := s.pc + 2 }) ∧
    (s.inbox = .step :: rest → step s = exec i { s with pc := s.pc + 2, inbox := rest })

/-- A word that is no instruction is stepped over, free running or with a `Step` waiting first: `pc` advances by 2 and nothing
else of the block changes (30_encoding.md R86, the spec's decision D10; the waiting events are the model's, log 2). -/
def Obligations.StepPassesOverUnknownWord : Prop :=
  ∀ (s : State) (c : Undecoded) (rest : List Event),
    s.rs = .running → s.pc.toNat ≤ 0xFFE →
    decode (wordOfBytes (s.mem.byteAt s.pc.toNat) (s.mem.byteAt (s.pc.toNat + 1))) = .error c →
    (s.inbox = [] → step s = .next { s with pc := s.pc + 2 }) ∧
    (s.inbox = .step :: rest → step s = .next { s with pc := s.pc + 2, inbox := rest })

/-- A fetch outside memory, free running or with a `Step` waiting first, halts with the first bad address and leaves `pc` where it
is (10_state.md R25 step 2, 20_memory.md R54, 60_exceptions.md R223, R224; the spec's decisions D5, D23, D24; that a raise is a
next state is DEDUCED, log 1, and the waiting events are the model's, log 2). -/
def Obligations.FetchOutsideMemoryHalts : Prop :=
  ∀ (s : State) (rest : List Event), s.rs = .running → 0xFFF ≤ s.pc.toNat →
    (s.inbox = [] →
      step s = .next { s with rs := .halted (.memBounds (if s.pc.toNat = 0xFFF then 0x1000 else s.pc.toNat)) }) ∧
    (s.inbox = .step :: rest →
      step s = .next
        { s with rs := .halted (.memBounds (if s.pc.toNat = 0xFFF then 0x1000 else s.pc.toNat)), inbox := rest })

/-- A halted block with no event waiting answers its fault (60_exceptions.md R225; the outcome is DEDUCED, log 1). -/
def Obligations.HaltedBlockAnswersItsFault : Prop :=
  ∀ (s : State) (f : Fault), s.inbox = [] → s.rs = .halted f → step s = .fault f

/-- In a key wait with no event waiting nothing happens, for ever: a hang, not a fault (44_keys_timers.md R205 case (g), decision
D19; log 2). -/
def Obligations.KeyWaitWithoutEventHangs : Prop :=
  ∀ (s : State) (x : Reg) (n : Nat), s.inbox = [] → s.rs = .awaitKey x → Sys2Proof.core.run n s = .next s

/-- A halted block accepts nothing but `Reset` and `PixelQuery`, and a waiting block neither `Step` nor `TimerTick`: such an event
is delivered and changes nothing (60_exceptions.md R225, R228; the spec's decisions D20, D25, D31; log 2). -/
def Obligations.UnacceptedEventsChangeNothing : Prop :=
  ∀ (s : State) (e : Event) (rest : List Event),
    s.inbox = e :: rest →
    ((∃ f, s.rs = .halted f) ∧ e ≠ .reset) ∨ ((∃ x, s.rs = .awaitKey x) ∧ (e = .step ∨ e = .timerTick)) →
    step s = .next { s with inbox := rest }

/-- The end-of-program idiom: a `1nnn` stored at address `nnn` leaves all state unchanged, however often it is stepped
(70_reset_and_hazards.md R264, the spec's decision D28). -/
def Obligations.JumpToItselfIsAnEndState : Prop :=
  ∀ (s : State) (nnn : BitVec 12) (n : Nat),
    s.rs = .running → s.inbox = [] → nnn.toNat ≤ 0xFFE → s.pc.toNat = nnn.toNat →
    wordOfBytes (s.mem.byteAt s.pc.toNat) (s.mem.byteAt (s.pc.toNat + 1)) = encode (.jp nnn) →
    Sys2Proof.core.run n s = .next s

/-! ### Reset and the events of the host -/

/-- What reset leaves: the registers zero and the glyph table in place (10_state.md R39); the rest of memory, the stack, the keys,
the screen and the run state are the spec's decision D8 (log 6), the glyph bytes its OPEN parameter D27 (log 5). -/
def Obligations.ResetLeavesTheTabledValues : Prop :=
  (∀ r, State.reset.getV r = 0) ∧ State.reset.pc = 0 ∧ State.reset.i = 0 ∧ State.reset.dt = 0 ∧ State.reset.st = 0 ∧
  (∀ a, a < 80 → State.reset.mem.byteAt a = Config.glyphTable.getD a 0) ∧ Config.glyphTable.length = 80 ∧
  (∀ a, 80 ≤ a → State.reset.mem.byteAt a = 0) ∧ State.reset.sp = 0 ∧
  (∀ k : Fin 16, State.reset.stack[k] = 0) ∧ (∀ k : Fin 16, State.reset.keys[k] = false) ∧
  (∀ r c, State.reset.fb.pixel r c = false) ∧ State.reset.rs = .running

/-- The event `Reset` is accepted in every run state and sets every piece of the block's state to its reset value; the host's
own inputs stay (70_reset_and_hazards.md R260, the spec's decision D8; log 2, log 6). -/
def Obligations.ResetEventRestoresEverything : Prop :=
  ∀ (s : State) (rest : List Event), s.inbox = .reset :: rest →
    ∃ t, step s = .next t ∧ UnchangedBut hostInput State.reset t ∧
      t.inbox = rest ∧ t.tape = s.tape ∧ t.draws = s.draws

/-- A load succeeds exactly when the image fits: then the image is at 0x200, `pc` is 0x200 and nothing else changes; otherwise the
fault is raised with nothing copied (20_memory.md R62, the spec's decisions D23, D29; log 1, log 13). -/
def Obligations.LoadProgramCopiesOrFaults : Prop :=
  ∀ (s : State) (bytes : List Byte) (rest : List Event),
    s.inbox = .loadProgram bytes :: rest → Safe s →
    ∃ t, step s = .next t ∧ t.inbox = rest ∧
      (if 512 + bytes.length ≤ 4096 then
        t.pc = 0x200 ∧ (∀ k, k < bytes.length → t.mem.byteAt (512 + k) = bytes.getD k 0) ∧
        UnchangedBut (fun p => p = .inbox ∨ p = .pc ∨ memRange 512 bytes.length p) s t
       else
        t.rs = .halted (.loadTooLarge bytes.length) ∧ UnchangedBut (fun p => p = .inbox ∨ p = .rs) s t)

/-- A key press sets its flag, and ends a key wait by writing the waiting register; nothing else changes (60_exceptions.md R230,
44_keys_timers.md R205; the spec's decision D19, log 10). -/
def Obligations.KeyDownSetsFlagAndEndsWait : Prop :=
  ∀ (s : State) (k : Fin 16) (rest : List Event),
    s.inbox = .keyDown k :: rest → Safe s →
    ∃ t, step s = .next t ∧ t.inbox = rest ∧ t.keys[k] = true ∧
      (∀ x, s.rs = .awaitKey x → (t.getV x).toNat = k.val ∧ t.rs = .running ∧
        UnchangedBut (fun p => p = .inbox ∨ p = .key k ∨ p = .v x ∨ p = .rs) s t) ∧
      (s.rs = .running → UnchangedBut (fun p => p = .inbox ∨ p = .key k) s t)

/-- A key release clears its flag, never ends a key wait, and writes nothing else (60_exceptions.md R231). That it is accepted in
every run state but a halted one is R228 (the spec's decisions D25, D31), and its delivery from the inbox is the model's (log 2). -/
def Obligations.KeyUpClearsItsFlagOnly : Prop :=
  ∀ (s : State) (k : Fin 16) (rest : List Event),
    s.inbox = .keyUp k :: rest → Safe s →
    ∃ t, step s = .next t ∧ t.inbox = rest ∧ t.keys[k] = false ∧
      UnchangedBut (fun p => p = .inbox ∨ p = .key k) s t

/-- A timer tick takes 1 from each timer that is not zero and changes nothing else (60_exceptions.md R232; that one tick serves both,
and only a running block, are the spec's decisions D20, D21). -/
def Obligations.TimerTickCountsBothDown : Prop :=
  ∀ (s : State) (rest : List Event),
    s.inbox = .timerTick :: rest → s.rs = .running →
    ∃ t, step s = .next t ∧ t.inbox = rest ∧ t.dt.toNat = s.dt.toNat - 1 ∧ t.st.toNat = s.st.toNat - 1 ∧
      UnchangedBut (fun p => p = .inbox ∨ p = .dt ∨ p = .st) s t

/-- A pixel query answers `FB[y][x]` in every run state and changes no state of the block (43_display.md R183, the spec's decision
D25; log 2). -/
def Obligations.PixelQueryReadsAndChangesNothing : Prop :=
  ∀ (s : State) (x : Fin 64) (y : Fin 32) (rest : List Event),
    s.inbox = .pixelQuery x y :: rest →
    s.respond (.pixelQuery x y) = .pixel (s.fb.pixel y x) ∧ step s = .next { s with inbox := rest }

/-- The key wait, from its `Fx0A` on: while only releases, queries, ticks and step requests arrive the block goes on waiting and
nothing but the keys changes, and the first key press completes the instruction without fetching it again (44_keys_timers.md R205,
the spec's decisions D19, D20; the events waiting in the inbox are the model's, log 2, log 10). -/
def Obligations.KeyWaitCompletesAtFirstKeyDown : Prop :=
  ∀ (s : State) (x : Reg) (k : Fin 16) (before rest : List Event),
    s.rs = .awaitKey x → s.inbox = before ++ .keyDown k :: rest →
    (∀ e ∈ before, e = .step ∨ e = .timerTick ∨ (∃ j, e = .keyUp j) ∨ ∃ c r, e = .pixelQuery c r) →
    (∀ m, m ≤ before.length → ∃ u, Sys2Proof.core.run m s = .next u ∧ u.rs = .awaitKey x ∧
      u.inbox = before.drop m ++ .keyDown k :: rest ∧
      UnchangedBut (fun p => p = .inbox ∨ ∃ j, p = .key j) s u) ∧
    ∃ t, Sys2Proof.core.run (before.length + 1) s = .next t ∧ t.inbox = rest ∧ t.rs = .running ∧
      (t.getV x).toNat = k.val ∧ t.keys[k] = true ∧
      UnchangedBut (fun p => p = .inbox ∨ p = .rs ∨ p = .v x ∨ ∃ j, p = .key j) s t

/-! ### Control transfer (40_flow.md) -/

/-- `1nnn` sets `pc` to the 12-bit address and changes nothing else; the address 0xFFF is accepted, and the next fetch faults
(40_flow.md R111). -/
def Obligations.JumpSetsPc : Prop :=
  ∀ (nnn : BitVec 12) (s : State),
    (encode (.jp nnn)).toNat = 0x1000 + nnn.toNat ∧
    ∃ t, exec (.jp nnn) s = .next t ∧ t.pc.toNat = nnn.toNat ∧ UnchangedBut (· = .pc) s t ∧
      (nnn = 0xFFF → t.fetch = .error (.memBounds 0x1000))

/-- `Bnnn` sets `pc` to the exact sum of the address and `V0`, not reduced to 12 bits, and changes nothing else; a sum of 0xFFF or
more makes the next fetch fault, with info 0x1000 for 0xFFF and the sum itself otherwise (40_flow.md R118). -/
def Obligations.ComputedJumpAddsV0 : Prop :=
  ∀ (nnn : BitVec 12) (s : State),
    (encode (.jpV0 nnn)).toNat = 0xB000 + nnn.toNat ∧
    ∃ t, exec (.jpV0 nnn) s = .next t ∧ t.pc.toNat = nnn.toNat + (s.getV 0).toNat ∧ UnchangedBut (· = .pc) s t ∧
      (0xFFF ≤ t.pc.toNat → t.fetch = .error (.memBounds (if t.pc.toNat = 0xFFF then 0x1000 else t.pc.toNat)))

/-- `3xkk` skips the next two bytes when the register equals the byte, `4xkk` when it differs; nothing but `pc` changes, and a
skip beyond memory makes the next fetch fault (40_flow.md R113, R114). -/
def Obligations.ImmediateSkips : Prop :=
  ∀ (x : Reg) (kk : Byte) (s : State),
    (encode (.seImm x kk)).toNat = 0x3000 + x.val * 256 + kk.toNat ∧
    (encode (.sneImm x kk)).toNat = 0x4000 + x.val * 256 + kk.toNat ∧
    (∃ t, exec (.seImm x kk) s = .next t ∧
      t.pc.toNat = (if s.getV x = kk then (s.pc.toNat + 2) % 65536 else s.pc.toNat) ∧ UnchangedBut (· = .pc) s t ∧
      (0x1000 ≤ t.pc.toNat → t.fetch = .error (.memBounds t.pc.toNat))) ∧
    (∃ t, exec (.sneImm x kk) s = .next t ∧
      t.pc.toNat = (if s.getV x ≠ kk then (s.pc.toNat + 2) % 65536 else s.pc.toNat) ∧ UnchangedBut (· = .pc) s t ∧
      (0x1000 ≤ t.pc.toNat → t.fetch = .error (.memBounds t.pc.toNat)))

/-- `5xy0` skips when the registers are equal, `9xy0` when they differ, so that with `x = y` the first always skips and the second
never does; nothing but `pc` changes (40_flow.md R115, R116; their strict encoding is the spec's decision D9). -/
def Obligations.RegisterSkips : Prop :=
  ∀ (x y : Reg) (s : State),
    (∃ t, exec (.seReg x y) s = .next t ∧
      t.pc.toNat = (if s.getV x = s.getV y then (s.pc.toNat + 2) % 65536 else s.pc.toNat) ∧
      UnchangedBut (· = .pc) s t) ∧
    (∃ t, exec (.sneReg x y) s = .next t ∧
      t.pc.toNat = (if s.getV x ≠ s.getV y then (s.pc.toNat + 2) % 65536 else s.pc.toNat) ∧
      UnchangedBut (· = .pc) s t)

/-- With room on the stack `2nnn` pushes the address of the next instruction and jumps (40_flow.md R112, 10_state.md R30; the layout
of the stack pointer is the spec's decision D7). -/
def Obligations.CallPushesAndJumps : Prop :=
  ∀ (nnn : BitVec 12) (s : State) (k : Fin 16), s.sp.val = k.val →
    ∃ t, exec (.call nnn) s = .next t ∧ t.stack[k] = s.pc ∧ t.sp.val = k.val + 1 ∧ t.pc.toNat = nnn.toNat ∧
      UnchangedBut (fun p => p = .pc ∨ p = .sp ∨ p = .stackEntry k) s t

/-- With an entry in use `00EE` pops it into `pc`, all 16 bits, and does not erase it (40_flow.md R110, 10_state.md R31; the layout
of the stack pointer is the spec's decision D7). -/
def Obligations.ReturnPopsIntoPc : Prop :=
  ∀ (s : State) (k : Fin 16), s.sp.val = k.val + 1 →
    ∃ t, exec .ret s = .next t ∧ t.pc = s.stack[k] ∧ t.sp.val = k.val ∧
      UnchangedBut (fun p => p = .pc ∨ p = .sp) s t

/-- A call on a full stack and a return on an empty one raise their faults, with the value that was to be pushed and 0 as the info,
and change nothing else (40_flow.md R110, R112, 60_exceptions.md R221; the spec's decision D23; log 1). -/
def Obligations.StackFaultsArePrecise : Prop :=
  ∀ (nnn : BitVec 12) (s : State),
    (s.sp.val = 16 → ∃ t, exec (.call nnn) s = .next t ∧ RaisedFrom s t (.stackOverflow s.pc) ∧
      (Fault.stackOverflow s.pc).code = 2 ∧ (Fault.stackOverflow s.pc).info = s.pc.toNat) ∧
    (s.sp.val = 0 → ∃ t, exec .ret s = .next t ∧ RaisedFrom s t .stackUnderflow ∧
      Fault.stackUnderflow.code = 3 ∧ Fault.stackUnderflow.info = 0)

/-- Two pushes are popped in reverse order, and so two calls, made at any `pc`, are answered by two returns in reverse order; a push
on a full stack fails (10_state.md R30, R31, 40_flow.md R110, R112; the layout is the spec's decision D7). -/
def Obligations.PushPopRoundTrip : Prop :=
  (∀ (s : State) (a b : Word), s.sp.val ≤ 14 →
    ∃ s1 s2 s3 s4, s.push a = .ok s1 ∧ s1.push b = .ok s2 ∧ s2.pop = .ok (b, s3) ∧ s3.pop = .ok (a, s4) ∧
      s4.sp = s.sp) ∧
  (∀ (s : State) (nnn mmm : BitVec 12) (b : Word), s.sp.val ≤ 14 →
    ∃ s1 s2 s3 s4, exec (.call nnn) s = .next s1 ∧ exec (.call mmm) (s1.setPc b) = .next s2 ∧
      exec .ret s2 = .next s3 ∧ s3.pc = b ∧ exec .ret s3 = .next s4 ∧ s4.pc = s.pc ∧ s4.sp = s.sp) ∧
  (∀ (s : State) (a : Word), s.sp.val = 16 → s.push a = .error (.stackOverflow a))

/-! ### Registers, arithmetic, logic, random (41_alu.md) -/

/-- `6xkk` loads the byte (41_alu.md R130). -/
def Obligations.LoadImmediate : Prop :=
  ∀ (x : Reg) (kk : Byte) (s : State),
    (encode (.ldImm x kk)).toNat = 0x6000 + x.val * 256 + kk.toNat ∧
    ∃ t, exec (.ldImm x kk) s = .next t ∧ t.getV x = kk ∧ UnchangedBut (· = .v x) s t

/-- `7xkk` adds the byte modulo 256 and writes no flag: with `x` not `F`, `VF` is among the parts unchanged (41_alu.md R131). -/
def Obligations.AddImmediateWritesNoFlag : Prop :=
  ∀ (x : Reg) (kk : Byte) (s : State),
    (encode (.addImm x kk)).toNat = 0x7000 + x.val * 256 + kk.toNat ∧
    ∃ t, exec (.addImm x kk) s = .next t ∧ (t.getV x).toNat = ((s.getV x).toNat + kk.toNat) % 256 ∧
      UnchangedBut (· = .v x) s t

/-- `8xy0` to `8xy3`: copy, or, and, exclusive or, bit by bit, into `V[x]` and nowhere else, so that `VF` is not altered unless it
is the destination (41_alu.md R132, R133, R134, R135). -/
def Obligations.CopyAndLogicWriteNoFlag : Prop :=
  ∀ (x y : Reg) (s : State),
    ((encode (.ldReg x y)).toNat = 0x8000 + x.val * 256 + y.val * 16 ∧
      (encode (.orReg x y)).toNat = 0x8001 + x.val * 256 + y.val * 16 ∧
      (encode (.andReg x y)).toNat = 0x8002 + x.val * 256 + y.val * 16 ∧
      (encode (.xorReg x y)).toNat = 0x8003 + x.val * 256 + y.val * 16) ∧
    (∃ t, exec (.ldReg x y) s = .next t ∧ t.getV x = s.getV y ∧ UnchangedBut (· = .v x) s t) ∧
    (∃ t, exec (.orReg x y) s = .next t ∧
      (∀ k : Nat, (t.getV x).getLsbD k = ((s.getV x).getLsbD k || (s.getV y).getLsbD k)) ∧
      UnchangedBut (· = .v x) s t) ∧
    (∃ t, exec (.andReg x y) s = .next t ∧
      (∀ k : Nat, (t.getV x).getLsbD k = ((s.getV x).getLsbD k && (s.getV y).getLsbD k)) ∧
      UnchangedBut (· = .v x) s t) ∧
    (∃ t, exec (.xorReg x y) s = .next t ∧
      (∀ k : Nat, (t.getV x).getLsbD k = ((s.getV x).getLsbD k != (s.getV y).getLsbD k)) ∧
      UnchangedBut (· = .v x) s t)

/-- `8xy4`: the sum modulo 256 in `V[x]`, and the carry in `VF` when `VF` is not the destination (41_alu.md R138). That with
`x = F` the sum remains, and that operands are read before, is the spec's decision D11 (log 8). -/
def Obligations.AddRegistersSetsCarry : Prop :=
  ∀ (x y : Reg) (s : State),
    ∃ t, exec (.addReg x y) s = .next t ∧
      (t.getV x).toNat = ((s.getV x).toNat + (s.getV y).toNat) % 256 ∧
      (x ≠ 15 → (t.getV 15).toNat = if (s.getV x).toNat + (s.getV y).toNat > 255 then 1 else 0) ∧
      UnchangedBut (fun p => p = .v x ∨ p = .v 15) s t

/-- `8xy5` and `8xy7`: the difference modulo 256 in `V[x]`, and in `VF`, when it is not the destination, 1 exactly when the minuend
is strictly greater (41_alu.md R139, R141). The case `x = F` is the spec's decision D11 (log 8). -/
def Obligations.SubtractSetsNoBorrow : Prop :=
  ∀ (x y : Reg) (s : State),
    (∃ t, exec (.subReg x y) s = .next t ∧
      (t.getV x).toNat = ((s.getV x).toNat + 256 - (s.getV y).toNat) % 256 ∧
      (x ≠ 15 → (t.getV 15).toNat = if (s.getV x).toNat > (s.getV y).toNat then 1 else 0) ∧
      UnchangedBut (fun p => p = .v x ∨ p = .v 15) s t) ∧
    (∃ t, exec (.subnReg x y) s = .next t ∧
      (t.getV x).toNat = ((s.getV y).toNat + 256 - (s.getV x).toNat) % 256 ∧
      (x ≠ 15 → (t.getV 15).toNat = if (s.getV y).toNat > (s.getV x).toNat then 1 else 0) ∧
      UnchangedBut (fun p => p = .v x ∨ p = .v 15) s t)

/-- `8xy6` and `8xyE` shift `V[x]` in place by one, whatever `y` is, and put the bit shifted out in `VF` when it is not the
destination (41_alu.md R140, R142). That `y` selects nothing is the spec's decision D12, the case `x = F` its decision D11 (log 8,
log 12). -/
def Obligations.ShiftsReportTheBitShiftedOut : Prop :=
  ∀ (x y : Reg) (s : State),
    (∃ t, exec (.shr x y) s = .next t ∧ (t.getV x).toNat = (s.getV x).toNat / 2 ∧
      (x ≠ 15 → (t.getV 15).toNat = (s.getV x).toNat % 2) ∧
      UnchangedBut (fun p => p = .v x ∨ p = .v 15) s t) ∧
    (∃ t, exec (.shl x y) s = .next t ∧ (t.getV x).toNat = ((s.getV x).toNat * 2) % 256 ∧
      (x ≠ 15 → (t.getV 15).toNat = (s.getV x).toNat / 128) ∧
      UnchangedBut (fun p => p = .v x ∨ p = .v 15) s t)

/-- `Cxkk` consumes exactly one byte of the random source, also when `kk = 0`, and loads its bits where `kk` has a 1 and 0 elsewhere
(41_alu.md R143, 10_state.md R35). The byte is the first one the host injected, or, where it injected none, a free value: the
statement holds for every value of it (log 4). -/
def Obligations.RandomIsMasked : Prop :=
  ∀ (x : Reg) (kk : Byte) (s : State),
    (encode (.rnd x kk)).toNat = 0xC000 + x.val * 256 + kk.toNat ∧
    ∃ t, exec (.rnd x kk) s = .next t ∧
      (∀ k : Nat, (t.getV x).getLsbD k = (kk.getLsbD k && s.randomByte.getLsbD k)) ∧
      (∀ b rest, s.tape = b :: rest → t.getV x = b &&& kk ∧ t.tape = rest) ∧
      (s.tape = [] → t.getV x = Config.randomByte s.draws &&& kk ∧ t.tape = []) ∧
      t.draws = s.draws + 1 ∧ UnchangedBut (fun p => p = .v x ∨ p = .tape ∨ p = .draws) s t

/-! ### Index register, loads and stores (42_index_memory.md) -/

/-- `Annn` loads the 12-bit address; the top four bits of `I` become 0 (42_index_memory.md R160). -/
def Obligations.LoadIndex : Prop :=
  ∀ (nnn : BitVec 12) (s : State),
    (encode (.ldI nnn)).toNat = 0xA000 + nnn.toNat ∧
    ∃ t, exec (.ldI nnn) s = .next t ∧ t.i.toNat = nnn.toNat ∧ UnchangedBut (· = .i) s t

/-- `Fx1E` adds modulo 65536 and writes no flag; `Fx29` gives five times the whole byte (42_index_memory.md R161, R162; the 16-bit
wrap and the missing mask are the spec's decisions D13, D14, log 12). -/
def Obligations.IndexArithmetic : Prop :=
  ∀ (x : Reg) (s : State),
    (∃ t, exec (.addI x) s = .next t ∧ t.i.toNat = (s.i.toNat + (s.getV x).toNat) % 65536 ∧
      UnchangedBut (· = .i) s t) ∧
    (∃ t, exec (.ldF x) s = .next t ∧ t.i.toNat = 5 * (s.getV x).toNat ∧ UnchangedBut (· = .i) s t)

/-- `Fx33` with three bytes of memory at `I` stores the hundreds, tens and units digits there, leading zeros included, and changes
nothing else, `I` included (42_index_memory.md R163; addresses unwrapped, the spec's decision D4). -/
def Obligations.DecimalDigitsAreStored : Prop :=
  ∀ (x : Reg) (s : State), s.i.toNat + 2 ≤ 0xFFF →
    ∃ t, exec (.ldB x) s = .next t ∧
      (t.mem.byteAt s.i.toNat).toNat = (s.getV x).toNat / 100 ∧
      (t.mem.byteAt (s.i.toNat + 1)).toNat = (s.getV x).toNat / 10 % 10 ∧
      (t.mem.byteAt (s.i.toNat + 2)).toNat = (s.getV x).toNat % 10 ∧
      UnchangedBut (memRange s.i.toNat 3) s t

/-- `Fx55` with `x + 1` bytes of memory at `I` stores `V0` to `Vx` there and changes nothing else (42_index_memory.md R165; that `I`
is unchanged is the spec's decision D15, log 12). -/
def Obligations.RegistersAreStored : Prop :=
  ∀ (x : Reg) (s : State), s.i.toNat + x.val ≤ 0xFFF →
    ∃ t, exec (.storeRegs x) s = .next t ∧
      (∀ r : Reg, r ≤ x → t.mem.byteAt (s.i.toNat + r.val) = s.getV r) ∧
      UnchangedBut (memRange s.i.toNat (x.val + 1)) s t

/-- `Fx65` with `x + 1` bytes of memory at `I` loads them into `V0` to `Vx` and changes nothing else (42_index_memory.md R166; that
`I` is unchanged is the spec's decision D15, log 12). -/
def Obligations.RegistersAreLoaded : Prop :=
  ∀ (x : Reg) (s : State), s.i.toNat + x.val ≤ 0xFFF →
    ∃ t, exec (.loadRegs x) s = .next t ∧
      (∀ r : Reg, r ≤ x → t.getV r = s.mem.byteAt (s.i.toNat + r.val)) ∧
      UnchangedBut (fun p => ∃ r : Reg, r ≤ x ∧ p = .v r) s t

/-- An access beyond 0xFFF raises `MEM_BOUNDS` at the lowest bad address, with no byte, register or pixel written, the bytes
below the limit included (42_index_memory.md R163, R165, R166, 43_display.md R182, 60_exceptions.md R222, R223, R224; the spec's
decisions D23, D24; log 1). -/
def Obligations.MemoryFaultsArePrecise : Prop :=
  ∀ (x y : Reg) (n : Fin 16) (s : State),
    (0xFFF < s.i.toNat + 2 → ∃ t, exec (.ldB x) s = .next t ∧ RaisedFrom s t (.memBounds (max s.i.toNat 0x1000))) ∧
    (0xFFF < s.i.toNat + x.val →
      (∃ t, exec (.storeRegs x) s = .next t ∧ RaisedFrom s t (.memBounds (max s.i.toNat 0x1000))) ∧
      (∃ t, exec (.loadRegs x) s = .next t ∧ RaisedFrom s t (.memBounds (max s.i.toNat 0x1000)))) ∧
    (1 ≤ n.val → 0x1000 < s.i.toNat + n.val →
      ∃ t, exec (.drw x y n) s = .next t ∧ RaisedFrom s t (.memBounds (max s.i.toNat 0x1000)))

/-- For an address in memory a read after a write gives the byte written and every other byte is as before; for an address outside,
both fail and name it (20_memory.md R52, R53). -/
def Obligations.ReadAfterWrite : Prop :=
  ∀ (s : State) (a : Nat) (v : Byte),
    (a < 4096 → ∃ t, s.memWrite a v = .ok t ∧ t.memRead a = .ok v ∧ s.memRead a = .ok (s.mem.byteAt a) ∧
      UnchangedBut (· = .mem a) s t) ∧
    (4096 ≤ a → s.memWrite a v = .error (.memBounds a) ∧ s.memRead a = .error (.memBounds a))

/-! ### Display (43_display.md) -/

/-- `00E0` turns every pixel off, so that every query answers off, and changes nothing else, `VF` included; no other word is this
instruction (43_display.md R180). That no other word is it rests on the strict reading of 30_encoding.md R88, the spec's decision D9
(log 7). -/
def Obligations.ClearTurnsEveryPixelOff : Prop :=
  (∀ s : State, ∃ t, exec .cls s = .next t ∧ (∀ r c, t.fb.pixel r c = false) ∧
    (∀ x y, t.pixelQuery x y = false) ∧ UnchangedBut anyPixel s t) ∧
  (∀ op : Word, decode op = .ok .cls ↔ op = 0x00E0)

/-- The blitter's loops are the closed form: a pixel is flipped exactly when the sprite, wrapped around the edges, has a 1 bit on it,
and there is a collision exactly when such a pixel was on (43_display.md R181; that bit 7 is leftmost is the spec's decision D16,
log 11). -/
def Obligations.BlitIsPixelwiseXor : Prop :=
  ∀ (fb : Screen) (x0 y0 : Nat) (bytes : List Byte), bytes.length ≤ 15 →
    (∀ r c, (blit fb x0 y0 bytes).fb.pixel r c = (fb.pixel r c != spriteOn x0 y0 bytes r c)) ∧
    ((blit fb x0 y0 bytes).collision = true ↔ ∃ r c, fb.pixel r c = true ∧ spriteOn x0 y0 bytes r c = true)

/-- `Dxyn` with its bytes inside memory, or with `n = 0`, XORs the `n` bytes at `I` onto the screen at `(V[x], V[y])` as they were
before, writes 1 or 0 to `VF` as a pixel went off or none did, and changes nothing else (43_display.md R182; `n = 0` and the reading
order are the spec's decision D17, the bit order its decision D16, log 11, log 12). -/
def Obligations.DrawXorsAndReportsCollision : Prop :=
  ∀ (x y : Reg) (n : Fin 16) (s : State), n.val = 0 ∨ s.i.toNat + n.val ≤ 0x1000 →
    ∃ t, exec (.drw x y n) s = .next t ∧
      (∀ r c, t.fb.pixel r c =
        (s.fb.pixel r c != spriteOn (s.getV x).toNat (s.getV y).toNat (spriteBytes s n) r c)) ∧
      ((t.getV 15 = 1 ∧ ∃ r c, s.fb.pixel r c = true ∧ t.fb.pixel r c = false) ∨
       (t.getV 15 = 0 ∧ ¬ ∃ r c, s.fb.pixel r c = true ∧ t.fb.pixel r c = false)) ∧
      UnchangedBut (fun p => p = .v 15 ∨ anyPixel p) s t

/-- Drawing the same sprite twice at the same place restores the screen: for any registers once `VF` holds its old value again, and
without more where `VF` gives no coordinate. Then, on a screen that was clear, the second draw reports a collision exactly when the
sprite has a 1 bit (43_display.md R181, R182; the spec's decisions D16, D17, log 11, log 12). -/
def Obligations.DrawingTwiceRestoresTheScreen : Prop :=
  ∀ (x y : Reg) (n : Fin 16) (s : State), n.val = 0 ∨ s.i.toNat + n.val ≤ 0x1000 →
    ∃ t, exec (.drw x y n) s = .next t ∧
      (∃ u, exec (.drw x y n) (t.setV 15 (s.getV 15)) = .next u ∧ u.fb = s.fb) ∧
      (x ≠ 15 → y ≠ 15 → ∃ u, exec (.drw x y n) t = .next u ∧ u.fb = s.fb ∧
        ((∀ r c, s.fb.pixel r c = false) → t.getV 15 = 0 ∧
          (u.getV 15 = 1 ↔ ∃ b ∈ spriteBytes s n, b ≠ 0)))

/-! ### Keys and timers (44_keys_timers.md) -/

/-- `Ex9E` skips when the key that `V[x]` names is down, `ExA1` when it is up; nothing but `pc` changes (44_keys_timers.md R200,
R201). -/
def Obligations.KeySkips : Prop :=
  ∀ (x : Reg) (k : Fin 16) (s : State), (s.getV x).toNat = k.val →
    (∃ t, exec (.skp x) s = .next t ∧
      t.pc.toNat = (if s.keys[k] = true then (s.pc.toNat + 2) % 65536 else s.pc.toNat) ∧
      UnchangedBut (· = .pc) s t) ∧
    (∃ t, exec (.sknp x) s = .next t ∧
      t.pc.toNat = (if s.keys[k] = false then (s.pc.toNat + 2) % 65536 else s.pc.toNat) ∧
      UnchangedBut (· = .pc) s t)

/-- With `V[x]` above 15 both key skips raise `KEY_INDEX` with that value and change nothing else (44_keys_timers.md R200, R201, the
spec's decisions D18, D23; log 1, log 9). -/
def Obligations.KeyIndexFaultsArePrecise : Prop :=
  ∀ (x : Reg) (s : State), 15 < (s.getV x).toNat →
    (∃ t, exec (.skp x) s = .next t ∧ RaisedFrom s t (.keyIndex (s.getV x))) ∧
    (∃ t, exec (.sknp x) s = .next t ∧ RaisedFrom s t (.keyIndex (s.getV x)))

/-- `Fx07` reads the delay timer as the ticks so far have left it, `Fx15` sets it, to any of the 256 values, and nothing else
changes; a tick in between never raises it (44_keys_timers.md R202, R203). -/
def Obligations.DelayTimerMoves : Prop :=
  ∀ (x : Reg) (s : State),
    ((encode (.ldVxDt x)).toNat = 0xF007 + x.val * 256 ∧ (encode (.ldDtVx x)).toNat = 0xF015 + x.val * 256) ∧
    (∃ t, exec (.ldVxDt x) s = .next t ∧ t.getV x = s.dt ∧ UnchangedBut (· = .v x) s t) ∧
    s.timerTick.dt.toNat ≤ s.dt.toNat ∧
    (∃ t, exec (.ldDtVx x) s = .next t ∧ t.dt = s.getV x ∧ UnchangedBut (· = .dt) s t)

/-- `Fx18` sets the sound timer and changes nothing else; no instruction reads it back: whatever it holds, every other part of
what any instruction leaves is the same (44_keys_timers.md R204). -/
def Obligations.SoundTimerIsSetAndNeverRead : Prop :=
  (∀ (x : Reg) (s : State),
    (encode (.ldStVx x)).toNat = 0xF018 + x.val * 256 ∧
    ∃ t, exec (.ldStVx x) s = .next t ∧ t.st = s.getV x ∧ UnchangedBut (· = .st) s t) ∧
  ∀ (i : Instr) (s : State) (b : Byte),
    ∃ t u, exec i s = .next t ∧ exec i (s.setSt b) = .next u ∧ UnchangedBut (· = .st) t u

/-- `Fx0A` begins a key wait, whatever keys are held, and changes nothing else (44_keys_timers.md R205, the spec's decision D19,
log 10). -/
def Obligations.KeyWaitBegins : Prop :=
  ∀ (x : Reg) (s : State),
    ∃ t, exec (.ldVxK x) s = .next t ∧ t.rs = .awaitKey x ∧ UnchangedBut (· = .rs) s t

/-! ### The whole machine -/

/-- No instruction stops the model: execute always answers a next state, in which a fault, if any, is the run state (60_exceptions.md
R222, R224; log 1). -/
def Obligations.EveryInstructionAnswersNext : Prop := ∀ (i : Instr) (s : State), ∃ t, exec i s = .next t

/-- No instruction writes a key, an event of the host, or, unless it is `Cxkk`, the random source (10_state.md R32, R35, R40). -/
def Obligations.InstructionsNeverWriteInputs : Prop :=
  ∀ (i : Instr) (s t : State), exec i s = .next t →
    t.keys = s.keys ∧ t.inbox = s.inbox ∧
    ((∀ x kk, i ≠ .rnd x kk) → t.tape = s.tape ∧ t.draws = s.draws)

/-- Who writes what: `I` only by `Annn`, `Fx1E`, `Fx29`; the stack only by `2nnn` and `00EE`; memory only by `Fx33` and `Fx55`; the
screen only by `00E0` and `Dxyn`; `DT` only by `Fx15` and `ST` only by `Fx18` (10_state.md R27, R28, R29, R33, 20_memory.md R51). -/
def Obligations.EachPartHasItsWriters : Prop :=
  ∀ (i : Instr) (s t : State), exec i s = .next t →
    (t.i ≠ s.i → (∃ nnn, i = .ldI nnn) ∨ (∃ x, i = .addI x) ∨ ∃ x, i = .ldF x) ∧
    (t.stack ≠ s.stack ∨ t.sp ≠ s.sp → (∃ nnn, i = .call nnn) ∨ i = .ret) ∧
    (t.mem ≠ s.mem → (∃ x, i = .ldB x) ∨ ∃ x, i = .storeRegs x) ∧
    (t.fb ≠ s.fb → i = .cls ∨ ∃ x y n, i = .drw x y n) ∧
    (t.dt ≠ s.dt → ∃ x, i = .ldDtVx x) ∧ (t.st ≠ s.st → ∃ x, i = .ldStVx x)

/-- A general register changes only as the destination of the instruction, or as `VF` under one of the six flag writers (10_state.md
R22, R23). -/
def Obligations.RegistersChangeOnlyAsDestinations : Prop :=
  ∀ (i : Instr) (s t : State) (r : Reg), exec i s = .next t → t.getV r ≠ s.getV r →
    destination r i = true ∨ (r = 15 ∧ flagWriter i = true)

/-- `raise` is precise and terminal for its instruction: an instruction that ends in a halt has changed nothing but the run state,
and it is one of those that can raise that fault (60_exceptions.md R222, R224; the spec's decision D23; log 1). -/
def Obligations.FaultsArePreciseAndExhaustive : Prop :=
  ∀ (i : Instr) (s t : State) (f : Fault), Safe s → exec i s = .next t → t.rs = .halted f →
    t = { s with rs := .halted f } ∧ mayRaise i f = true

/-- The three invariants hold at reset (10_state.md R39, the spec's decision D8; log 6). -/
def Obligations.InvariantsHoldAtReset : Prop :=
  MemCanonical State.reset ∧ ControlInRange State.reset ∧ HaltExplained State.reset

/-- Every step, an event or an instruction, keeps memory in its canonical form: addresses rising, below 4096, and no byte that
equals its reset contents (20_memory.md R50, R53). -/
def Obligations.StepKeepsMemoryCanonical : Prop :=
  ∀ s t : State, MemCanonical s → step s = .next t → MemCanonical t

/-- Every step keeps `pc` at most 0x10FE and every return address in use at most 0x1000, so that additions to `pc` never wrap
(10_state.md R24, R26, 40_flow.md R110, R118). -/
def Obligations.StepKeepsControlInRange : Prop :=
  ∀ s t : State, ControlInRange s → step s = .next t → ControlInRange t

/-- Every step keeps the halt explained: whatever halted the block is still to be seen in the frozen state, an address outside memory
as the first bad one that `pc` or `I` leads to (60_exceptions.md R221, R223, R224, R225; the spec's decisions D23, D24; log 1). -/
def Obligations.StepKeepsHaltExplained : Prop :=
  ∀ s t : State, HaltExplained s → step s = .next t → HaltExplained t
end

