-- ==== Sys2Proof/Laws/Decode.lean ====
section
/-! SUPPORT. The fields of a word put together by each format (30_encoding.md R81, R82), and the bytes of a word. -/

namespace Sys2Proof

@[simp] theorem fieldH_formatNNN (h : BitVec 4) (nnn : BitVec 12) : fieldH (formatNNN h nnn) = h.toNat := by
  unfold fieldH formatNNN
  congr 1
  ext i hi
  simp only [BitVec.getElem_extractLsb', BitVec.getLsbD_append]
  grind

@[simp] theorem fieldNNN_formatNNN (h : BitVec 4) (nnn : BitVec 12) : fieldNNN (formatNNN h nnn) = nnn := by
  unfold fieldNNN formatNNN
  ext i hi
  simp only [BitVec.getElem_extractLsb', BitVec.getLsbD_append]
  grind

@[simp] theorem fieldH_formatXKK (h : BitVec 4) (x : Reg) (kk : Byte) : fieldH (formatXKK h x kk) = h.toNat := by
  unfold fieldH formatXKK
  congr 1
  ext i hi
  simp only [BitVec.getElem_extractLsb', BitVec.getLsbD_append]
  grind

@[simp] theorem fieldX_formatXKK (h : BitVec 4) (x : Reg) (kk : Byte) : fieldX (formatXKK h x kk) = x := by
  have e : (formatXKK h x kk).extractLsb' 8 4 = BitVec.ofFin x := by
    unfold formatXKK
    ext i hi
    simp only [BitVec.getElem_extractLsb', BitVec.getLsbD_append]
    grind
  unfold fieldX
  rw [e]

@[simp] theorem fieldKK_formatXKK (h : BitVec 4) (x : Reg) (kk : Byte) : fieldKK (formatXKK h x kk) = kk := by
  unfold fieldKK formatXKK
  ext i hi
  simp only [BitVec.getElem_extractLsb', BitVec.getLsbD_append]
  grind

@[simp] theorem fieldH_formatXYN (h : BitVec 4) (x y n : Fin 16) : fieldH (formatXYN h x y n) = h.toNat := by
  unfold fieldH formatXYN
  congr 1
  ext i hi
  simp only [BitVec.getElem_extractLsb', BitVec.getLsbD_append]
  grind

@[simp] theorem fieldX_formatXYN (h : BitVec 4) (x y n : Fin 16) : fieldX (formatXYN h x y n) = x := by
  have e : (formatXYN h x y n).extractLsb' 8 4 = BitVec.ofFin x := by
    unfold formatXYN
    ext i hi
    simp only [BitVec.getElem_extractLsb', BitVec.getLsbD_append]
    grind
  unfold fieldX
  rw [e]

@[simp] theorem fieldY_formatXYN (h : BitVec 4) (x y n : Fin 16) : fieldY (formatXYN h x y n) = y := by
  have e : (formatXYN h x y n).extractLsb' 4 4 = BitVec.ofFin y := by
    unfold formatXYN
    ext i hi
    simp only [BitVec.getElem_extractLsb', BitVec.getLsbD_append]
    grind
  unfold fieldY
  rw [e]

@[simp] theorem fieldN_formatXYN (h : BitVec 4) (x y n : Fin 16) : fieldN (formatXYN h x y n) = n := by
  have e : (formatXYN h x y n).extractLsb' 0 4 = BitVec.ofFin n := by
    unfold formatXYN
    ext i hi
    simp only [BitVec.getElem_extractLsb', BitVec.getLsbD_append]
    grind
  unfold fieldN
  rw [e]

/-- The two bytes of a word, put together again big-endian, are the word (20_memory.md R56). -/
@[simp] theorem wordOfBytes_highByte_lowByte (op : Word) : wordOfBytes (highByte op) (lowByte op) = op := by
  unfold wordOfBytes highByte lowByte
  ext i hi
  simp only [BitVec.getElem_append, BitVec.getElem_extractLsb']
  split
  · grind
  · rw [show 8 + (i - 8) = i by omega]
    exact BitVec.getLsbD_eq_getElem hi

end Sys2Proof
end

