-- ==== Sys2Proof/Laws/State.lean ====
section
/-! SUPPORT. One lemma per field per update of the state, so that no later proof unfolds a record update. -/

namespace Sys2Proof.Machine

/-! ### setV -/

@[simp] theorem State.setV_v (s : State) (x : Reg) (b : Byte) : (s.setV x b).v = s.v.set x b := rfl
@[simp] theorem State.setV_pc (s : State) (x : Reg) (b : Byte) : (s.setV x b).pc = s.pc := rfl
@[simp] theorem State.setV_i (s : State) (x : Reg) (b : Byte) : (s.setV x b).i = s.i := rfl
@[simp] theorem State.setV_dt (s : State) (x : Reg) (b : Byte) : (s.setV x b).dt = s.dt := rfl
@[simp] theorem State.setV_st (s : State) (x : Reg) (b : Byte) : (s.setV x b).st = s.st := rfl
@[simp] theorem State.setV_stack (s : State) (x : Reg) (b : Byte) : (s.setV x b).stack = s.stack := rfl
@[simp] theorem State.setV_sp (s : State) (x : Reg) (b : Byte) : (s.setV x b).sp = s.sp := rfl
@[simp] theorem State.setV_mem (s : State) (x : Reg) (b : Byte) : (s.setV x b).mem = s.mem := rfl
@[simp] theorem State.setV_keys (s : State) (x : Reg) (b : Byte) : (s.setV x b).keys = s.keys := rfl
@[simp] theorem State.setV_fb (s : State) (x : Reg) (b : Byte) : (s.setV x b).fb = s.fb := rfl
@[simp] theorem State.setV_rs (s : State) (x : Reg) (b : Byte) : (s.setV x b).rs = s.rs := rfl
@[simp] theorem State.setV_inbox (s : State) (x : Reg) (b : Byte) : (s.setV x b).inbox = s.inbox := rfl
@[simp] theorem State.setV_tape (s : State) (x : Reg) (b : Byte) : (s.setV x b).tape = s.tape := rfl
@[simp] theorem State.setV_draws (s : State) (x : Reg) (b : Byte) : (s.setV x b).draws = s.draws := rfl

/-! ### setPc -/

@[simp] theorem State.setPc_v (s : State) (t : Word) : (s.setPc t).v = s.v := rfl
@[simp] theorem State.setPc_pc (s : State) (t : Word) : (s.setPc t).pc = t := rfl
@[simp] theorem State.setPc_i (s : State) (t : Word) : (s.setPc t).i = s.i := rfl
@[simp] theorem State.setPc_dt (s : State) (t : Word) : (s.setPc t).dt = s.dt := rfl
@[simp] theorem State.setPc_st (s : State) (t : Word) : (s.setPc t).st = s.st := rfl
@[simp] theorem State.setPc_stack (s : State) (t : Word) : (s.setPc t).stack = s.stack := rfl
@[simp] theorem State.setPc_sp (s : State) (t : Word) : (s.setPc t).sp = s.sp := rfl
@[simp] theorem State.setPc_mem (s : State) (t : Word) : (s.setPc t).mem = s.mem := rfl
@[simp] theorem State.setPc_keys (s : State) (t : Word) : (s.setPc t).keys = s.keys := rfl
@[simp] theorem State.setPc_fb (s : State) (t : Word) : (s.setPc t).fb = s.fb := rfl
@[simp] theorem State.setPc_rs (s : State) (t : Word) : (s.setPc t).rs = s.rs := rfl
@[simp] theorem State.setPc_inbox (s : State) (t : Word) : (s.setPc t).inbox = s.inbox := rfl
@[simp] theorem State.setPc_tape (s : State) (t : Word) : (s.setPc t).tape = s.tape := rfl
@[simp] theorem State.setPc_draws (s : State) (t : Word) : (s.setPc t).draws = s.draws := rfl
@[simp] theorem State.setPc_getV (s : State) (t : Word) (y : Reg) : (s.setPc t).getV y = s.getV y := rfl

/-! ### setI -/

@[simp] theorem State.setI_v (s : State) (a : Word) : (s.setI a).v = s.v := rfl
@[simp] theorem State.setI_pc (s : State) (a : Word) : (s.setI a).pc = s.pc := rfl
@[simp] theorem State.setI_i (s : State) (a : Word) : (s.setI a).i = a := rfl
@[simp] theorem State.setI_dt (s : State) (a : Word) : (s.setI a).dt = s.dt := rfl
@[simp] theorem State.setI_st (s : State) (a : Word) : (s.setI a).st = s.st := rfl
@[simp] theorem State.setI_stack (s : State) (a : Word) : (s.setI a).stack = s.stack := rfl
@[simp] theorem State.setI_sp (s : State) (a : Word) : (s.setI a).sp = s.sp := rfl
@[simp] theorem State.setI_mem (s : State) (a : Word) : (s.setI a).mem = s.mem := rfl
@[simp] theorem State.setI_keys (s : State) (a : Word) : (s.setI a).keys = s.keys := rfl
@[simp] theorem State.setI_fb (s : State) (a : Word) : (s.setI a).fb = s.fb := rfl
@[simp] theorem State.setI_rs (s : State) (a : Word) : (s.setI a).rs = s.rs := rfl
@[simp] theorem State.setI_inbox (s : State) (a : Word) : (s.setI a).inbox = s.inbox := rfl
@[simp] theorem State.setI_tape (s : State) (a : Word) : (s.setI a).tape = s.tape := rfl
@[simp] theorem State.setI_draws (s : State) (a : Word) : (s.setI a).draws = s.draws := rfl
@[simp] theorem State.setI_getV (s : State) (a : Word) (y : Reg) : (s.setI a).getV y = s.getV y := rfl

/-! ### setDt -/

@[simp] theorem State.setDt_v (s : State) (b : Byte) : (s.setDt b).v = s.v := rfl
@[simp] theorem State.setDt_pc (s : State) (b : Byte) : (s.setDt b).pc = s.pc := rfl
@[simp] theorem State.setDt_i (s : State) (b : Byte) : (s.setDt b).i = s.i := rfl
@[simp] theorem State.setDt_dt (s : State) (b : Byte) : (s.setDt b).dt = b := rfl
@[simp] theorem State.setDt_st (s : State) (b : Byte) : (s.setDt b).st = s.st := rfl
@[simp] theorem State.setDt_stack (s : State) (b : Byte) : (s.setDt b).stack = s.stack := rfl
@[simp] theorem State.setDt_sp (s : State) (b : Byte) : (s.setDt b).sp = s.sp := rfl
@[simp] theorem State.setDt_mem (s : State) (b : Byte) : (s.setDt b).mem = s.mem := rfl
@[simp] theorem State.setDt_keys (s : State) (b : Byte) : (s.setDt b).keys = s.keys := rfl
@[simp] theorem State.setDt_fb (s : State) (b : Byte) : (s.setDt b).fb = s.fb := rfl
@[simp] theorem State.setDt_rs (s : State) (b : Byte) : (s.setDt b).rs = s.rs := rfl
@[simp] theorem State.setDt_inbox (s : State) (b : Byte) : (s.setDt b).inbox = s.inbox := rfl
@[simp] theorem State.setDt_tape (s : State) (b : Byte) : (s.setDt b).tape = s.tape := rfl
@[simp] theorem State.setDt_draws (s : State) (b : Byte) : (s.setDt b).draws = s.draws := rfl
@[simp] theorem State.setDt_getV (s : State) (b : Byte) (y : Reg) : (s.setDt b).getV y = s.getV y := rfl

/-! ### setSt -/

@[simp] theorem State.setSt_v (s : State) (b : Byte) : (s.setSt b).v = s.v := rfl
@[simp] theorem State.setSt_pc (s : State) (b : Byte) : (s.setSt b).pc = s.pc := rfl
@[simp] theorem State.setSt_i (s : State) (b : Byte) : (s.setSt b).i = s.i := rfl
@[simp] theorem State.setSt_dt (s : State) (b : Byte) : (s.setSt b).dt = s.dt := rfl
@[simp] theorem State.setSt_st (s : State) (b : Byte) : (s.setSt b).st = b := rfl
@[simp] theorem State.setSt_stack (s : State) (b : Byte) : (s.setSt b).stack = s.stack := rfl
@[simp] theorem State.setSt_sp (s : State) (b : Byte) : (s.setSt b).sp = s.sp := rfl
@[simp] theorem State.setSt_mem (s : State) (b : Byte) : (s.setSt b).mem = s.mem := rfl
@[simp] theorem State.setSt_keys (s : State) (b : Byte) : (s.setSt b).keys = s.keys := rfl
@[simp] theorem State.setSt_fb (s : State) (b : Byte) : (s.setSt b).fb = s.fb := rfl
@[simp] theorem State.setSt_rs (s : State) (b : Byte) : (s.setSt b).rs = s.rs := rfl
@[simp] theorem State.setSt_inbox (s : State) (b : Byte) : (s.setSt b).inbox = s.inbox := rfl
@[simp] theorem State.setSt_tape (s : State) (b : Byte) : (s.setSt b).tape = s.tape := rfl
@[simp] theorem State.setSt_draws (s : State) (b : Byte) : (s.setSt b).draws = s.draws := rfl
@[simp] theorem State.setSt_getV (s : State) (b : Byte) (y : Reg) : (s.setSt b).getV y = s.getV y := rfl

/-! ### setMem -/

@[simp] theorem State.setMem_v (s : State) (m : Memory) : (s.setMem m).v = s.v := rfl
@[simp] theorem State.setMem_pc (s : State) (m : Memory) : (s.setMem m).pc = s.pc := rfl
@[simp] theorem State.setMem_i (s : State) (m : Memory) : (s.setMem m).i = s.i := rfl
@[simp] theorem State.setMem_dt (s : State) (m : Memory) : (s.setMem m).dt = s.dt := rfl
@[simp] theorem State.setMem_st (s : State) (m : Memory) : (s.setMem m).st = s.st := rfl
@[simp] theorem State.setMem_stack (s : State) (m : Memory) : (s.setMem m).stack = s.stack := rfl
@[simp] theorem State.setMem_sp (s : State) (m : Memory) : (s.setMem m).sp = s.sp := rfl
@[simp] theorem State.setMem_mem (s : State) (m : Memory) : (s.setMem m).mem = m := rfl
@[simp] theorem State.setMem_keys (s : State) (m : Memory) : (s.setMem m).keys = s.keys := rfl
@[simp] theorem State.setMem_fb (s : State) (m : Memory) : (s.setMem m).fb = s.fb := rfl
@[simp] theorem State.setMem_rs (s : State) (m : Memory) : (s.setMem m).rs = s.rs := rfl
@[simp] theorem State.setMem_inbox (s : State) (m : Memory) : (s.setMem m).inbox = s.inbox := rfl
@[simp] theorem State.setMem_tape (s : State) (m : Memory) : (s.setMem m).tape = s.tape := rfl
@[simp] theorem State.setMem_draws (s : State) (m : Memory) : (s.setMem m).draws = s.draws := rfl
@[simp] theorem State.setMem_getV (s : State) (m : Memory) (y : Reg) : (s.setMem m).getV y = s.getV y := rfl

/-! ### setScreen -/

@[simp] theorem State.setScreen_v (s : State) (fb : Screen) : (s.setScreen fb).v = s.v := rfl
@[simp] theorem State.setScreen_pc (s : State) (fb : Screen) : (s.setScreen fb).pc = s.pc := rfl
@[simp] theorem State.setScreen_i (s : State) (fb : Screen) : (s.setScreen fb).i = s.i := rfl
@[simp] theorem State.setScreen_dt (s : State) (fb : Screen) : (s.setScreen fb).dt = s.dt := rfl
@[simp] theorem State.setScreen_st (s : State) (fb : Screen) : (s.setScreen fb).st = s.st := rfl
@[simp] theorem State.setScreen_stack (s : State) (fb : Screen) : (s.setScreen fb).stack = s.stack := rfl
@[simp] theorem State.setScreen_sp (s : State) (fb : Screen) : (s.setScreen fb).sp = s.sp := rfl
@[simp] theorem State.setScreen_mem (s : State) (fb : Screen) : (s.setScreen fb).mem = s.mem := rfl
@[simp] theorem State.setScreen_keys (s : State) (fb : Screen) : (s.setScreen fb).keys = s.keys := rfl
@[simp] theorem State.setScreen_fb (s : State) (fb : Screen) : (s.setScreen fb).fb = fb := rfl
@[simp] theorem State.setScreen_rs (s : State) (fb : Screen) : (s.setScreen fb).rs = s.rs := rfl
@[simp] theorem State.setScreen_inbox (s : State) (fb : Screen) : (s.setScreen fb).inbox = s.inbox := rfl
@[simp] theorem State.setScreen_tape (s : State) (fb : Screen) : (s.setScreen fb).tape = s.tape := rfl
@[simp] theorem State.setScreen_draws (s : State) (fb : Screen) : (s.setScreen fb).draws = s.draws := rfl
@[simp] theorem State.setScreen_getV (s : State) (fb : Screen) (y : Reg) : (s.setScreen fb).getV y = s.getV y := rfl

/-! ### setKey -/

@[simp] theorem State.setKey_v (s : State) (k : Fin 16) (down : Bool) : (s.setKey k down).v = s.v := rfl
@[simp] theorem State.setKey_pc (s : State) (k : Fin 16) (down : Bool) : (s.setKey k down).pc = s.pc := rfl
@[simp] theorem State.setKey_i (s : State) (k : Fin 16) (down : Bool) : (s.setKey k down).i = s.i := rfl
@[simp] theorem State.setKey_dt (s : State) (k : Fin 16) (down : Bool) : (s.setKey k down).dt = s.dt := rfl
@[simp] theorem State.setKey_st (s : State) (k : Fin 16) (down : Bool) : (s.setKey k down).st = s.st := rfl
@[simp] theorem State.setKey_stack (s : State) (k : Fin 16) (down : Bool) : (s.setKey k down).stack = s.stack := rfl
@[simp] theorem State.setKey_sp (s : State) (k : Fin 16) (down : Bool) : (s.setKey k down).sp = s.sp := rfl
@[simp] theorem State.setKey_mem (s : State) (k : Fin 16) (down : Bool) : (s.setKey k down).mem = s.mem := rfl
@[simp] theorem State.setKey_keys (s : State) (k : Fin 16) (down : Bool) : (s.setKey k down).keys = s.keys.set k down := rfl
@[simp] theorem State.setKey_fb (s : State) (k : Fin 16) (down : Bool) : (s.setKey k down).fb = s.fb := rfl
@[simp] theorem State.setKey_rs (s : State) (k : Fin 16) (down : Bool) : (s.setKey k down).rs = s.rs := rfl
@[simp] theorem State.setKey_inbox (s : State) (k : Fin 16) (down : Bool) : (s.setKey k down).inbox = s.inbox := rfl
@[simp] theorem State.setKey_tape (s : State) (k : Fin 16) (down : Bool) : (s.setKey k down).tape = s.tape := rfl
@[simp] theorem State.setKey_draws (s : State) (k : Fin 16) (down : Bool) : (s.setKey k down).draws = s.draws := rfl
@[simp] theorem State.setKey_getV (s : State) (k : Fin 16) (down : Bool) (y : Reg) : (s.setKey k down).getV y = s.getV y := rfl

/-! ### setRun -/

@[simp] theorem State.setRun_v (s : State) (r : RunState) : (s.setRun r).v = s.v := rfl
@[simp] theorem State.setRun_pc (s : State) (r : RunState) : (s.setRun r).pc = s.pc := rfl
@[simp] theorem State.setRun_i (s : State) (r : RunState) : (s.setRun r).i = s.i := rfl
@[simp] theorem State.setRun_dt (s : State) (r : RunState) : (s.setRun r).dt = s.dt := rfl
@[simp] theorem State.setRun_st (s : State) (r : RunState) : (s.setRun r).st = s.st := rfl
@[simp] theorem State.setRun_stack (s : State) (r : RunState) : (s.setRun r).stack = s.stack := rfl
@[simp] theorem State.setRun_sp (s : State) (r : RunState) : (s.setRun r).sp = s.sp := rfl
@[simp] theorem State.setRun_mem (s : State) (r : RunState) : (s.setRun r).mem = s.mem := rfl
@[simp] theorem State.setRun_keys (s : State) (r : RunState) : (s.setRun r).keys = s.keys := rfl
@[simp] theorem State.setRun_fb (s : State) (r : RunState) : (s.setRun r).fb = s.fb := rfl
@[simp] theorem State.setRun_rs (s : State) (r : RunState) : (s.setRun r).rs = r := rfl
@[simp] theorem State.setRun_inbox (s : State) (r : RunState) : (s.setRun r).inbox = s.inbox := rfl
@[simp] theorem State.setRun_tape (s : State) (r : RunState) : (s.setRun r).tape = s.tape := rfl
@[simp] theorem State.setRun_draws (s : State) (r : RunState) : (s.setRun r).draws = s.draws := rfl
@[simp] theorem State.setRun_getV (s : State) (r : RunState) (y : Reg) : (s.setRun r).getV y = s.getV y := rfl

/-! ### setInbox -/

@[simp] theorem State.setInbox_v (s : State) (rest : List Event) : (s.setInbox rest).v = s.v := rfl
@[simp] theorem State.setInbox_pc (s : State) (rest : List Event) : (s.setInbox rest).pc = s.pc := rfl
@[simp] theorem State.setInbox_i (s : State) (rest : List Event) : (s.setInbox rest).i = s.i := rfl
@[simp] theorem State.setInbox_dt (s : State) (rest : List Event) : (s.setInbox rest).dt = s.dt := rfl
@[simp] theorem State.setInbox_st (s : State) (rest : List Event) : (s.setInbox rest).st = s.st := rfl
@[simp] theorem State.setInbox_stack (s : State) (rest : List Event) : (s.setInbox rest).stack = s.stack := rfl
@[simp] theorem State.setInbox_sp (s : State) (rest : List Event) : (s.setInbox rest).sp = s.sp := rfl
@[simp] theorem State.setInbox_mem (s : State) (rest : List Event) : (s.setInbox rest).mem = s.mem := rfl
@[simp] theorem State.setInbox_keys (s : State) (rest : List Event) : (s.setInbox rest).keys = s.keys := rfl
@[simp] theorem State.setInbox_fb (s : State) (rest : List Event) : (s.setInbox rest).fb = s.fb := rfl
@[simp] theorem State.setInbox_rs (s : State) (rest : List Event) : (s.setInbox rest).rs = s.rs := rfl
@[simp] theorem State.setInbox_inbox (s : State) (rest : List Event) : (s.setInbox rest).inbox = rest := rfl
@[simp] theorem State.setInbox_tape (s : State) (rest : List Event) : (s.setInbox rest).tape = s.tape := rfl
@[simp] theorem State.setInbox_draws (s : State) (rest : List Event) : (s.setInbox rest).draws = s.draws := rfl
@[simp] theorem State.setInbox_getV (s : State) (rest : List Event) (y : Reg) : (s.setInbox rest).getV y = s.getV y := rfl

/-! ### advance -/

@[simp] theorem State.advance_v (s : State) : (s.advance).v = s.v := rfl
@[simp] theorem State.advance_pc (s : State) : (s.advance).pc = s.pc + 2 := rfl
@[simp] theorem State.advance_i (s : State) : (s.advance).i = s.i := rfl
@[simp] theorem State.advance_dt (s : State) : (s.advance).dt = s.dt := rfl
@[simp] theorem State.advance_st (s : State) : (s.advance).st = s.st := rfl
@[simp] theorem State.advance_stack (s : State) : (s.advance).stack = s.stack := rfl
@[simp] theorem State.advance_sp (s : State) : (s.advance).sp = s.sp := rfl
@[simp] theorem State.advance_mem (s : State) : (s.advance).mem = s.mem := rfl
@[simp] theorem State.advance_keys (s : State) : (s.advance).keys = s.keys := rfl
@[simp] theorem State.advance_fb (s : State) : (s.advance).fb = s.fb := rfl
@[simp] theorem State.advance_rs (s : State) : (s.advance).rs = s.rs := rfl
@[simp] theorem State.advance_inbox (s : State) : (s.advance).inbox = s.inbox := rfl
@[simp] theorem State.advance_tape (s : State) : (s.advance).tape = s.tape := rfl
@[simp] theorem State.advance_draws (s : State) : (s.advance).draws = s.draws := rfl
@[simp] theorem State.advance_getV (s : State) (y : Reg) : (s.advance).getV y = s.getV y := rfl

/-! ### raise -/

@[simp] theorem State.raise_v (s : State) (f : Fault) : (s.raise f).v = s.v := rfl
@[simp] theorem State.raise_pc (s : State) (f : Fault) : (s.raise f).pc = s.pc := rfl
@[simp] theorem State.raise_i (s : State) (f : Fault) : (s.raise f).i = s.i := rfl
@[simp] theorem State.raise_dt (s : State) (f : Fault) : (s.raise f).dt = s.dt := rfl
@[simp] theorem State.raise_st (s : State) (f : Fault) : (s.raise f).st = s.st := rfl
@[simp] theorem State.raise_stack (s : State) (f : Fault) : (s.raise f).stack = s.stack := rfl
@[simp] theorem State.raise_sp (s : State) (f : Fault) : (s.raise f).sp = s.sp := rfl
@[simp] theorem State.raise_mem (s : State) (f : Fault) : (s.raise f).mem = s.mem := rfl
@[simp] theorem State.raise_keys (s : State) (f : Fault) : (s.raise f).keys = s.keys := rfl
@[simp] theorem State.raise_fb (s : State) (f : Fault) : (s.raise f).fb = s.fb := rfl
@[simp] theorem State.raise_rs (s : State) (f : Fault) : (s.raise f).rs = .halted f := rfl
@[simp] theorem State.raise_inbox (s : State) (f : Fault) : (s.raise f).inbox = s.inbox := rfl
@[simp] theorem State.raise_tape (s : State) (f : Fault) : (s.raise f).tape = s.tape := rfl
@[simp] theorem State.raise_draws (s : State) (f : Fault) : (s.raise f).draws = s.draws := rfl
@[simp] theorem State.raise_getV (s : State) (f : Fault) (y : Reg) : (s.raise f).getV y = s.getV y := rfl

/-! ### consumeRandom -/

@[simp] theorem State.consumeRandom_v (s : State) : (s.consumeRandom).v = s.v := rfl
@[simp] theorem State.consumeRandom_pc (s : State) : (s.consumeRandom).pc = s.pc := rfl
@[simp] theorem State.consumeRandom_i (s : State) : (s.consumeRandom).i = s.i := rfl
@[simp] theorem State.consumeRandom_dt (s : State) : (s.consumeRandom).dt = s.dt := rfl
@[simp] theorem State.consumeRandom_st (s : State) : (s.consumeRandom).st = s.st := rfl
@[simp] theorem State.consumeRandom_stack (s : State) : (s.consumeRandom).stack = s.stack := rfl
@[simp] theorem State.consumeRandom_sp (s : State) : (s.consumeRandom).sp = s.sp := rfl
@[simp] theorem State.consumeRandom_mem (s : State) : (s.consumeRandom).mem = s.mem := rfl
@[simp] theorem State.consumeRandom_keys (s : State) : (s.consumeRandom).keys = s.keys := rfl
@[simp] theorem State.consumeRandom_fb (s : State) : (s.consumeRandom).fb = s.fb := rfl
@[simp] theorem State.consumeRandom_rs (s : State) : (s.consumeRandom).rs = s.rs := rfl
@[simp] theorem State.consumeRandom_inbox (s : State) : (s.consumeRandom).inbox = s.inbox := rfl
@[simp] theorem State.consumeRandom_tape (s : State) : (s.consumeRandom).tape = s.tape.tail := rfl
@[simp] theorem State.consumeRandom_draws (s : State) : (s.consumeRandom).draws = s.draws + 1 := rfl
@[simp] theorem State.consumeRandom_getV (s : State) (y : Reg) : (s.consumeRandom).getV y = s.getV y := rfl

/-! ### loadBlock -/

@[simp] theorem State.loadBlock_v (s : State) (bytes : List Byte) : (s.loadBlock bytes).v = Vector.ofFn fun r : Fin 16 => bytes.getD r.val s.v[r] := rfl
@[simp] theorem State.loadBlock_pc (s : State) (bytes : List Byte) : (s.loadBlock bytes).pc = s.pc := rfl
@[simp] theorem State.loadBlock_i (s : State) (bytes : List Byte) : (s.loadBlock bytes).i = s.i := rfl
@[simp] theorem State.loadBlock_dt (s : State) (bytes : List Byte) : (s.loadBlock bytes).dt = s.dt := rfl
@[simp] theorem State.loadBlock_st (s : State) (bytes : List Byte) : (s.loadBlock bytes).st = s.st := rfl
@[simp] theorem State.loadBlock_stack (s : State) (bytes : List Byte) : (s.loadBlock bytes).stack = s.stack := rfl
@[simp] theorem State.loadBlock_sp (s : State) (bytes : List Byte) : (s.loadBlock bytes).sp = s.sp := rfl
@[simp] theorem State.loadBlock_mem (s : State) (bytes : List Byte) : (s.loadBlock bytes).mem = s.mem := rfl
@[simp] theorem State.loadBlock_keys (s : State) (bytes : List Byte) : (s.loadBlock bytes).keys = s.keys := rfl
@[simp] theorem State.loadBlock_fb (s : State) (bytes : List Byte) : (s.loadBlock bytes).fb = s.fb := rfl
@[simp] theorem State.loadBlock_rs (s : State) (bytes : List Byte) : (s.loadBlock bytes).rs = s.rs := rfl
@[simp] theorem State.loadBlock_inbox (s : State) (bytes : List Byte) : (s.loadBlock bytes).inbox = s.inbox := rfl
@[simp] theorem State.loadBlock_tape (s : State) (bytes : List Byte) : (s.loadBlock bytes).tape = s.tape := rfl
@[simp] theorem State.loadBlock_draws (s : State) (bytes : List Byte) : (s.loadBlock bytes).draws = s.draws := rfl

/-! ### timerTick -/

@[simp] theorem State.timerTick_v (s : State) : (s.timerTick).v = s.v := rfl
@[simp] theorem State.timerTick_pc (s : State) : (s.timerTick).pc = s.pc := rfl
@[simp] theorem State.timerTick_i (s : State) : (s.timerTick).i = s.i := rfl
@[simp] theorem State.timerTick_dt (s : State) : (s.timerTick).dt = countDown s.dt := rfl
@[simp] theorem State.timerTick_st (s : State) : (s.timerTick).st = countDown s.st := rfl
@[simp] theorem State.timerTick_stack (s : State) : (s.timerTick).stack = s.stack := rfl
@[simp] theorem State.timerTick_sp (s : State) : (s.timerTick).sp = s.sp := rfl
@[simp] theorem State.timerTick_mem (s : State) : (s.timerTick).mem = s.mem := rfl
@[simp] theorem State.timerTick_keys (s : State) : (s.timerTick).keys = s.keys := rfl
@[simp] theorem State.timerTick_fb (s : State) : (s.timerTick).fb = s.fb := rfl
@[simp] theorem State.timerTick_rs (s : State) : (s.timerTick).rs = s.rs := rfl
@[simp] theorem State.timerTick_inbox (s : State) : (s.timerTick).inbox = s.inbox := rfl
@[simp] theorem State.timerTick_tape (s : State) : (s.timerTick).tape = s.tape := rfl
@[simp] theorem State.timerTick_draws (s : State) : (s.timerTick).draws = s.draws := rfl
@[simp] theorem State.timerTick_getV (s : State) (y : Reg) : (s.timerTick).getV y = s.getV y := rfl

/-! ### resetEvent -/

@[simp] theorem State.resetEvent_v (s : State) : (s.resetEvent).v = State.reset.v := rfl
@[simp] theorem State.resetEvent_pc (s : State) : (s.resetEvent).pc = State.reset.pc := rfl
@[simp] theorem State.resetEvent_i (s : State) : (s.resetEvent).i = State.reset.i := rfl
@[simp] theorem State.resetEvent_dt (s : State) : (s.resetEvent).dt = State.reset.dt := rfl
@[simp] theorem State.resetEvent_st (s : State) : (s.resetEvent).st = State.reset.st := rfl
@[simp] theorem State.resetEvent_stack (s : State) : (s.resetEvent).stack = State.reset.stack := rfl
@[simp] theorem State.resetEvent_sp (s : State) : (s.resetEvent).sp = State.reset.sp := rfl
@[simp] theorem State.resetEvent_mem (s : State) : (s.resetEvent).mem = State.reset.mem := rfl
@[simp] theorem State.resetEvent_keys (s : State) : (s.resetEvent).keys = State.reset.keys := rfl
@[simp] theorem State.resetEvent_fb (s : State) : (s.resetEvent).fb = State.reset.fb := rfl
@[simp] theorem State.resetEvent_rs (s : State) : (s.resetEvent).rs = State.reset.rs := rfl
@[simp] theorem State.resetEvent_inbox (s : State) : (s.resetEvent).inbox = s.inbox := rfl
@[simp] theorem State.resetEvent_tape (s : State) : (s.resetEvent).tape = s.tape := rfl
@[simp] theorem State.resetEvent_draws (s : State) : (s.resetEvent).draws = s.draws := rfl

/-! ### skipIf -/

@[simp] theorem State.skipIf_v (s : State) (c : Bool) : (s.skipIf c).v = s.v := by
  cases c <;> rfl
theorem State.skipIf_pc (s : State) (c : Bool) : (s.skipIf c).pc = if c then s.pc + 2 else s.pc := by
  cases c <;> rfl
@[simp] theorem State.skipIf_i (s : State) (c : Bool) : (s.skipIf c).i = s.i := by
  cases c <;> rfl
@[simp] theorem State.skipIf_dt (s : State) (c : Bool) : (s.skipIf c).dt = s.dt := by
  cases c <;> rfl
@[simp] theorem State.skipIf_st (s : State) (c : Bool) : (s.skipIf c).st = s.st := by
  cases c <;> rfl
@[simp] theorem State.skipIf_stack (s : State) (c : Bool) : (s.skipIf c).stack = s.stack := by
  cases c <;> rfl
@[simp] theorem State.skipIf_sp (s : State) (c : Bool) : (s.skipIf c).sp = s.sp := by
  cases c <;> rfl
@[simp] theorem State.skipIf_mem (s : State) (c : Bool) : (s.skipIf c).mem = s.mem := by
  cases c <;> rfl
@[simp] theorem State.skipIf_keys (s : State) (c : Bool) : (s.skipIf c).keys = s.keys := by
  cases c <;> rfl
@[simp] theorem State.skipIf_fb (s : State) (c : Bool) : (s.skipIf c).fb = s.fb := by
  cases c <;> rfl
@[simp] theorem State.skipIf_rs (s : State) (c : Bool) : (s.skipIf c).rs = s.rs := by
  cases c <;> rfl
@[simp] theorem State.skipIf_inbox (s : State) (c : Bool) : (s.skipIf c).inbox = s.inbox := by
  cases c <;> rfl
@[simp] theorem State.skipIf_tape (s : State) (c : Bool) : (s.skipIf c).tape = s.tape := by
  cases c <;> rfl
@[simp] theorem State.skipIf_draws (s : State) (c : Bool) : (s.skipIf c).draws = s.draws := by
  cases c <;> rfl
@[simp] theorem State.skipIf_getV (s : State) (c : Bool) (y : Reg) : (s.skipIf c).getV y = s.getV y := by
  cases c <;> rfl

/-! ### setFlagThen -/

@[simp] theorem State.setFlagThen_pc (s : State) (flag : Byte) (x : Reg) (result : Byte) :
    (s.setFlagThen flag x result).pc = s.pc := rfl
@[simp] theorem State.setFlagThen_i (s : State) (flag : Byte) (x : Reg) (result : Byte) :
    (s.setFlagThen flag x result).i = s.i := rfl
@[simp] theorem State.setFlagThen_dt (s : State) (flag : Byte) (x : Reg) (result : Byte) :
    (s.setFlagThen flag x result).dt = s.dt := rfl
@[simp] theorem State.setFlagThen_st (s : State) (flag : Byte) (x : Reg) (result : Byte) :
    (s.setFlagThen flag x result).st = s.st := rfl
@[simp] theorem State.setFlagThen_stack (s : State) (flag : Byte) (x : Reg) (result : Byte) :
    (s.setFlagThen flag x result).stack = s.stack := rfl
@[simp] theorem State.setFlagThen_sp (s : State) (flag : Byte) (x : Reg) (result : Byte) :
    (s.setFlagThen flag x result).sp = s.sp := rfl
@[simp] theorem State.setFlagThen_mem (s : State) (flag : Byte) (x : Reg) (result : Byte) :
    (s.setFlagThen flag x result).mem = s.mem := rfl
@[simp] theorem State.setFlagThen_keys (s : State) (flag : Byte) (x : Reg) (result : Byte) :
    (s.setFlagThen flag x result).keys = s.keys := rfl
@[simp] theorem State.setFlagThen_fb (s : State) (flag : Byte) (x : Reg) (result : Byte) :
    (s.setFlagThen flag x result).fb = s.fb := rfl
@[simp] theorem State.setFlagThen_rs (s : State) (flag : Byte) (x : Reg) (result : Byte) :
    (s.setFlagThen flag x result).rs = s.rs := rfl
@[simp] theorem State.setFlagThen_inbox (s : State) (flag : Byte) (x : Reg) (result : Byte) :
    (s.setFlagThen flag x result).inbox = s.inbox := rfl
@[simp] theorem State.setFlagThen_tape (s : State) (flag : Byte) (x : Reg) (result : Byte) :
    (s.setFlagThen flag x result).tape = s.tape := rfl
@[simp] theorem State.setFlagThen_draws (s : State) (flag : Byte) (x : Reg) (result : Byte) :
    (s.setFlagThen flag x result).draws = s.draws := rfl

/-! ### reading a register after an update -/

/-- The register written reads as the value written, every other one as before. -/
theorem State.getV_setV (s : State) (x y : Reg) (b : Byte) :
    (s.setV x b).getV y = if y = x then b else s.getV y := by
  simp only [State.getV, State.setV, Fin.getElem_fin, Vector.getElem_set, Fin.val_inj, eq_comm]

@[simp] theorem State.getV_setV_same (s : State) (x : Reg) (b : Byte) : (s.setV x b).getV x = b := by
  simp [State.getV_setV]

theorem State.getV_setV_ne (s : State) {x y : Reg} (b : Byte) (h : y ≠ x) : (s.setV x b).getV y = s.getV y := by
  simp [State.getV_setV, h]

/-- A record whose `v` is that of another state reads the same registers. -/
theorem State.getV_congr {s t : State} (h : t.v = s.v) (x : Reg) : t.getV x = s.getV x := by
  simp [State.getV, h]

/-- The destination holds the result, `VF` the flag unless it is the destination, every other register its old value
(41_alu.md R137). -/
theorem State.getV_setFlagThen (s : State) (flag : Byte) (x y : Reg) (result : Byte) :
    (s.setFlagThen flag x result).getV y = if y = x then result else if y = flagReg then flag else s.getV y := by
  simp only [State.setFlagThen, State.getV_setV]

/-- A loaded block reads as its bytes, and as the old registers where it ends (42_index_memory.md R166). -/
theorem State.getV_loadBlock (s : State) (bytes : List Byte) (y : Reg) :
    (s.loadBlock bytes).getV y = bytes.getD y.val (s.getV y) := by
  simp [State.getV, State.loadBlock]

end Sys2Proof.Machine
end

