-- ==== Sys2Proof/Laws/Memory.lean ====
section
/-! SUPPORT. What the memory operations do: reading after writing, and the canonical form (20_memory.md R50 to R58). -/

namespace Sys2Proof.Machine

theorem Config_memSize : Config.memSize = 4096 := rfl

theorem Config_loadOffset : Config.loadOffset = 512 := rfl

/-! ### Reading after writing -/

theorem Memory.byteAt_cons (a b : Nat) (v : Byte) (rest : Memory) :
    Memory.byteAt ((b, v) :: rest) a = if b = a then v else Memory.byteAt rest a := rfl

theorem Memory.byteAt_erase (m : Memory) (a b : Nat) :
    (m.erase a).byteAt b = if b = a then Config.resetByte b else m.byteAt b := by
  induction m with
  | nil => simp [Memory.erase, Memory.byteAt]
  | cons cell rest ih =>
    obtain ⟨c, u⟩ := cell
    simp only [Memory.erase] at ih ⊢
    by_cases hca : c = a
    · subst hca
      simp only [List.filter_cons, bne_self_eq_false, Bool.false_eq_true, if_false, ih, Memory.byteAt_cons]
      grind
    · have h : (c != a) = true := by simpa using hca
      simp only [List.filter_cons, h, if_true, Memory.byteAt_cons, ih]
      grind

theorem Memory.byteAt_insert (m : Memory) (a b : Nat) (v : Byte) (h : ∀ cell ∈ m, cell.1 ≠ a) :
    (m.insert a v).byteAt b = if b = a then v else m.byteAt b := by
  induction m with
  | nil => simp [Memory.insert, Memory.byteAt, eq_comm]
  | cons cell rest ih =>
    obtain ⟨c, u⟩ := cell
    have hca : c ≠ a := h (c, u) (by simp)
    have hrest : ∀ cell ∈ rest, cell.1 ≠ a := fun cell hc => h cell (by simp [hc])
    by_cases hlt : a < c
    · simp [Memory.insert, hlt, Memory.byteAt_cons, eq_comm]
    · simp only [Memory.insert, hlt, if_false, Memory.byteAt_cons, ih hrest]
      grind

/-- The byte written reads back, and every other byte is as before (20_memory.md R53). -/
theorem Memory.byteAt_setByte (m : Memory) (a b : Nat) (v : Byte) :
    (m.setByte a v).byteAt b = if b = a then v else m.byteAt b := by
  unfold Memory.setByte
  split
  · rename_i hv
    rw [Memory.byteAt_erase]
    split
    · rename_i hb
      rw [hb, hv]
    · rfl
  · rw [Memory.byteAt_insert, Memory.byteAt_erase]
    · grind
    · simp [Memory.erase]

/-! ### The canonical form -/

theorem Memory.wfFrom_cons (lo a : Nat) (v : Byte) (rest : Memory) :
    Memory.wfFrom lo ((a, v) :: rest) = true ↔
      lo ≤ a ∧ a < Config.memSize ∧ v ≠ Config.resetByte a ∧ Memory.wfFrom (a + 1) rest = true := by
  simp [Memory.wfFrom, Bool.and_eq_true, and_assoc]

theorem Memory.wfFrom_mono {m : Memory} {lo lo' : Nat} (hle : lo' ≤ lo) (h : m.wfFrom lo = true) :
    m.wfFrom lo' = true := by
  cases m with
  | nil => rfl
  | cons cell rest =>
    rw [Memory.wfFrom_cons] at h ⊢
    exact ⟨by omega, h.2⟩

theorem Memory.wfFrom_erase {m : Memory} {lo : Nat} (a : Nat) (h : m.wfFrom lo = true) :
    (m.erase a).wfFrom lo = true := by
  induction m generalizing lo with
  | nil => rfl
  | cons cell rest ih =>
    obtain ⟨c, u⟩ := cell
    rw [Memory.wfFrom_cons] at h
    have hrest := ih h.2.2.2
    simp only [Memory.erase, List.filter_cons] at hrest ⊢
    split
    · rw [Memory.wfFrom_cons]
      exact ⟨h.1, h.2.1, h.2.2.1, hrest⟩
    · exact Memory.wfFrom_mono (by omega) hrest

theorem Memory.wfFrom_insert {m : Memory} {lo a : Nat} {v : Byte} (h : m.wfFrom lo = true)
    (hlo : lo ≤ a) (ha : a < Config.memSize) (hv : v ≠ Config.resetByte a) (hne : ∀ cell ∈ m, cell.1 ≠ a) :
    (m.insert a v).wfFrom lo = true := by
  induction m generalizing lo with
  | nil => rw [Memory.insert, Memory.wfFrom_cons]; exact ⟨hlo, ha, hv, rfl⟩
  | cons cell rest ih =>
    obtain ⟨c, u⟩ := cell
    have hca : c ≠ a := hne (c, u) (by simp)
    rw [Memory.wfFrom_cons] at h
    by_cases hlt : a < c
    · simp only [Memory.insert, hlt, if_true, Memory.wfFrom_cons]
      exact ⟨hlo, ha, hv, by omega, h.2⟩
    · simp only [Memory.insert, hlt, if_false, Memory.wfFrom_cons]
      exact ⟨h.1, h.2.1, h.2.2.1, ih h.2.2.2 (by omega) fun cell hc => hne cell (by simp [hc])⟩

/-- A write inside memory keeps the canonical form. -/
theorem Memory.wf_setByte {m : Memory} {a : Nat} {v : Byte} (h : m.wf = true) (ha : a < Config.memSize) :
    (m.setByte a v).wf = true := by
  unfold Memory.setByte Memory.wf at *
  split
  · exact Memory.wfFrom_erase a h
  · rename_i hv
    exact Memory.wfFrom_insert (Memory.wfFrom_erase a h) (Nat.zero_le a) ha hv (by simp [Memory.erase])

/-- Memory right after reset is canonical. -/
theorem Memory.wf_reset : State.reset.mem.wf = true := rfl

/-! ### The checked accesses -/

theorem State.memRead_eq (s : State) (addr : Nat) :
    s.memRead addr = if addr < 4096 then .ok (s.mem.byteAt addr) else .error (.memBounds addr) := rfl

theorem State.memWrite_eq (s : State) (addr : Nat) (v : Byte) :
    s.memWrite addr v =
      if addr < 4096 then .ok (s.setMem (s.mem.setByte addr v)) else .error (.memBounds addr) := rfl

/-- The two-byte read: both bytes in memory, or the first bad address (20_memory.md R54). -/
theorem State.memReadWord_eq (s : State) (addr : Nat) :
    s.memReadWord addr =
      if addr + 1 < 4096 then .ok (wordOfBytes (s.mem.byteAt addr) (s.mem.byteAt (addr + 1)))
      else .error (.memBounds (max addr 4096)) := by
  simp only [State.memReadWord, State.memRead_eq]
  by_cases h : addr < 4096
  · by_cases h' : addr + 1 < 4096
    · simp [h, h']
    · have e : max addr 4096 = addr + 1 := by omega
      simp [h, h', e]
  · have e : max addr 4096 = addr := by omega
    have h' : ¬ addr + 1 < 4096 := by omega
    simp [h, h', e]

/-- Everything a read of several bytes can do (20_memory.md R58, 60_exceptions.md R223). -/
theorem State.readBytes_eq (s : State) (addr n : Nat) :
    s.readBytes addr n =
      if n = 0 ∨ addr + n ≤ 4096 then .ok ((List.range n).map fun k => s.mem.byteAt (addr + k))
      else .error (.memBounds (max addr 4096)) := by
  induction n generalizing addr with
  | zero => simp [State.readBytes]
  | succ n ih =>
    simp only [State.readBytes, State.memRead_eq, ih]
    by_cases h : addr < 4096
    · by_cases h' : n = 0 ∨ addr + 1 + n ≤ 4096
      · have h2 : n + 1 = 0 ∨ addr + (n + 1) ≤ 4096 := by omega
        simp only [h, h', h2, if_true, Except.map, List.range_succ_eq_map, List.map_cons, List.map_map, Nat.add_zero]
        congr 3
        funext k
        exact congrArg s.mem.byteAt (by simp; omega)
      · have h2 : ¬ (n + 1 = 0 ∨ addr + (n + 1) ≤ 4096) := by omega
        have e : max (addr + 1) 4096 = max addr 4096 := by omega
        simp only [h, h', h2, if_true, if_false, Except.map, e]
    · have h2 : ¬ (n + 1 = 0 ∨ addr + (n + 1) ≤ 4096) := by omega
      have e : max addr 4096 = addr := by omega
      simp only [h, h2, if_false, e]

/-- Everything a write of several bytes can do: all of them land and nothing but memory changes, or the lowest bad address
is reported (20_memory.md R58, 60_exceptions.md R223). -/
theorem State.writeBytes_cases (s : State) (addr : Nat) (bytes : List Byte) :
    ((bytes = [] ∨ addr + bytes.length ≤ 4096) ∧
      ∃ m : Memory, s.writeBytes addr bytes = .ok (s.setMem m) ∧ (s.mem.wf = true → m.wf = true) ∧
        ∀ b, m.byteAt b =
          if addr ≤ b ∧ b < addr + bytes.length then bytes.getD (b - addr) 0 else s.mem.byteAt b) ∨
    (¬ (bytes = [] ∨ addr + bytes.length ≤ 4096) ∧
      s.writeBytes addr bytes = .error (.memBounds (max addr 4096))) := by
  induction bytes generalizing addr s with
  | nil => exact .inl ⟨.inl rfl, s.mem, rfl, id, fun b => by simp⟩
  | cons v rest ih =>
    simp only [State.writeBytes, State.memWrite_eq, List.length_cons]
    by_cases h : addr < 4096
    · simp only [h, if_true]
      rcases ih (s.setMem (s.mem.setByte addr v)) (addr + 1) with ⟨hb, m, hm, hwf, hat⟩ | ⟨hb, he⟩
      · refine .inl ⟨?_, m, hm, fun w => hwf (Memory.wf_setByte w h), fun b => ?_⟩
        · rcases hb with hb | hb
          · subst hb; right; simpa using h
          · right; omega
        · rw [hat b, State.setMem_mem, Memory.byteAt_setByte]
          by_cases hba : b = addr
          · subst hba
            simp
          · by_cases hr : addr + 1 ≤ b ∧ b < addr + 1 + rest.length
            · have hr' : addr ≤ b ∧ b < addr + (rest.length + 1) := by omega
              have e : b - addr = (b - (addr + 1)) + 1 := by omega
              simp only [hr, hr', e, and_self, if_true, List.getD_cons_succ]
            · have hr' : ¬ (addr ≤ b ∧ b < addr + (rest.length + 1)) := by omega
              simp only [hr, hr', hba, if_false]
      · refine .inr ⟨?_, ?_⟩
        · push Not at hb ⊢
          exact ⟨by simp, by omega⟩
        · have e : max (addr + 1) 4096 = max addr 4096 := by
            push Not at hb
            omega
          rw [he, e]
    · refine .inr ⟨?_, ?_⟩
      · push Not
        exact ⟨by simp, by omega⟩
      · have e : max addr 4096 = addr := by omega
        simp only [h, if_false, e]

end Sys2Proof.Machine
end

