-- ==== Sys2Proof/Laws/Ops.lean ====
section
/-! SUPPORT. Everything the call stack, the run state, the key operand and the commit of an instruction can do. -/

namespace Sys2Proof.Machine

/-- A commit is the effect, or the fault raised in the entering state (60_exceptions.md R224). -/
theorem State.commit_cases (s : State) (r : Except Fault State) :
    (∃ t, r = .ok t ∧ s.commit r = t) ∨ (∃ f, r = .error f ∧ s.commit r = s.raise f) := by
  cases r with
  | ok t => exact .inl ⟨t, rfl, rfl⟩
  | error f => exact .inr ⟨f, rfl, rfl⟩

@[simp] theorem State.commit_ok (s t : State) : s.commit (.ok t) = t := rfl

@[simp] theorem State.commit_error (s : State) (f : Fault) : s.commit (.error f) = s.raise f := rfl

/-- Everything a push can do (10_state.md R30). -/
theorem State.push_cases (s : State) (v : Word) :
    (∃ h : s.sp.val < 16,
      s.push v = .ok { s with stack := s.stack.set s.sp.val v, sp := ⟨s.sp.val + 1, by omega⟩ }) ∨
    (s.sp.val = 16 ∧ s.push v = .error (.stackOverflow v)) := by
  by_cases h : s.sp.val < 16
  · exact .inl ⟨h, by simp [State.push, h]⟩
  · exact .inr ⟨by omega, by simp [State.push, h]⟩

/-- Everything a pop can do (10_state.md R31). -/
theorem State.pop_cases (s : State) :
    (∃ _h : s.sp.val ≠ 0,
      s.pop = .ok (s.stack[s.sp.val - 1]'(by omega), { s with sp := ⟨s.sp.val - 1, by omega⟩ })) ∨
    (s.sp.val = 0 ∧ s.pop = .error .stackUnderflow) := by
  by_cases h : s.sp.val = 0
  · exact .inr ⟨h, by simp [State.pop, h]⟩
  · exact .inl ⟨h, by simp [State.pop, h]⟩

/-- Everything the key operand can be (44_keys_timers.md R200). -/
theorem State.keyOf_cases (s : State) (x : Reg) :
    (∃ h : (s.getV x).toNat < 16, s.keyOf x = .ok ⟨(s.getV x).toNat, h⟩) ∨
    (16 ≤ (s.getV x).toNat ∧ s.keyOf x = .error (.keyIndex (s.getV x))) := by
  by_cases h : (s.getV x).toNat < 16
  · exact .inl ⟨h, by simp [State.keyOf, h]⟩
  · exact .inr ⟨by omega, by simp [State.keyOf, h]⟩

/-- The block stored by `Fx55` is `V0` to `Vx`, `x + 1` bytes (42_index_memory.md R165). -/
theorem State.registerBlock_length (s : State) (x : Reg) : (s.registerBlock x).length = x.val + 1 := by
  simp [State.registerBlock, registersTo]

theorem State.registerBlock_getD (s : State) (x y : Reg) (d : Byte) (h : y.val ≤ x.val) :
    (s.registerBlock x).getD y.val d = s.getV y := by
  have hlen : y.val < (s.registerBlock x).length := by
    rw [State.registerBlock_length]
    omega
  rw [List.getD_eq_getElem _ _ hlen]
  simp [State.registerBlock, registersTo]

end Sys2Proof.Machine
end

