-- ==== Sys2Proof/Laws/Screen.lean ====
section
/-! SUPPORT. What the framebuffer operations do to one pixel (43_display.md R180, R181). -/

namespace Sys2Proof.Machine

@[simp] theorem Screen.pixel_clear (r : Fin 32) (c : Fin 64) : Screen.clear.pixel r c = false := by
  simp [Screen.clear, Screen.pixel]

/-- A flip changes its own pixel and no other (43_display.md R181). -/
theorem Screen.pixel_flip (fb : Screen) (r r' : Fin 32) (c c' : Fin 64) :
    (fb.flip r c).pixel r' c' = if r' = r ∧ c' = c then !(fb.pixel r c) else fb.pixel r' c' := by
  simp only [Screen.pixel, Screen.flip, Fin.getElem_fin, Vector.getElem_set, Fin.ext_iff]
  by_cases hr : r.val = r'.val
  · by_cases hc : c.val = c'.val
    · simp [hr, hc]
    · have hc' : ¬ c'.val = c.val := fun h => hc h.symm
      simp [hr, hc, hc']
  · have hr' : ¬ r'.val = r.val := fun h => hr h.symm
    simp [hr, hr']

/-- Two screens with the same pixels are the same. -/
theorem Screen.ext_pixel {fb gb : Screen} (h : ∀ r c, fb.pixel r c = gb.pixel r c) : fb = gb := by
  apply Vector.ext
  intro r hr
  apply Vector.ext
  intro c hc
  exact h ⟨r, hr⟩ ⟨c, hc⟩

/-- Everything one sprite bit can do (43_display.md R181). -/
theorem drawBit_pixel (x0 y0 row col : Nat) (b : Byte) (d : Drawing) (r : Fin 32) (c : Fin 64) :
    (drawBit x0 y0 row b d col).fb.pixel r c =
      (if spriteBit b col = true ∧ r = wrapRow (y0 + row) ∧ c = wrapCol (x0 + col) then !(d.fb.pixel r c)
       else d.fb.pixel r c) := by
  unfold drawBit
  by_cases h : spriteBit b col = true
  · simp only [h, if_true, true_and, Screen.pixel_flip]
    split
    · rename_i hrc
      rw [hrc.1, hrc.2]
    · rfl
  · simp [h]

end Sys2Proof.Machine
end

