-- ==== Sys2Proof/Laws/Step.lean ====
section
/-! SUPPORT. Everything one turn of the block can do: the inversion of the step, the cycle and the events. -/

namespace Sys2Proof.Machine

/-- The fetch: the big-endian word at `pc`, or `MEM_BOUNDS` of the first bad address (10_state.md R25 step 2). -/
theorem State.fetch_eq (s : State) :
    s.fetch =
      if s.pc.toNat + 1 < 4096 then
        .ok (wordOfBytes (s.mem.byteAt s.pc.toNat) (s.mem.byteAt (s.pc.toNat + 1)))
      else .error (.memBounds (max s.pc.toNat 4096)) :=
  s.memReadWord_eq s.pc.toNat

/-- Everything the instruction cycle can do (10_state.md R25, 30_encoding.md R86). -/
theorem State.cycle_cases (s : State) :
    (∃ f, s.fetch = .error f ∧ s.cycle = .next (s.raise f)) ∨
    (∃ op i, s.fetch = .ok op ∧ decode op = .ok i ∧ s.cycle = exec i s.advance) ∨
    (∃ op c, s.fetch = .ok op ∧ decode op = .error c ∧ s.cycle = .next s.advance) := by
  unfold State.cycle
  cases hf : s.fetch with
  | error f => exact .inl ⟨f, rfl, rfl⟩
  | ok op =>
    cases hd : decode op with
    | ok i => exact .inr (.inl ⟨op, i, rfl, hd, by simp [hd]⟩)
    | error c => exact .inr (.inr ⟨op, c, rfl, hd, by simp [hd]⟩)

/-- Everything an accepted or refused event can do. -/
theorem State.serve_cases (s : State) (e : Event) :
    (s.accepts e = false ∧ s.serve e = .next s) ∨
    (s.accepts e = true ∧
      ((e = .reset ∧ s.serve e = .next s.resetEvent) ∨
       (∃ bytes, e = .loadProgram bytes ∧ s.serve e = .next (s.loadProgram bytes)) ∨
       (e = .step ∧ s.rs = .running ∧ s.serve e = s.cycle) ∨
       (∃ k, e = .keyDown k ∧ s.serve e = .next (s.keyDown k)) ∨
       (∃ k, e = .keyUp k ∧ s.serve e = .next (s.keyUp k)) ∨
       (e = .timerTick ∧ s.serve e = .next s.timerTick) ∨
       (∃ x y, e = .pixelQuery x y ∧ s.serve e = .next s))) := by
  cases ha : s.accepts e with
  | false => exact .inl ⟨rfl, by simp [State.serve, ha]⟩
  | true =>
    refine .inr ⟨rfl, ?_⟩
    unfold State.serve
    rw [ha]
    cases e with
    | step =>
      have hr : s.rs = .running := by
        unfold State.accepts at ha
        cases hrs : s.rs <;> simp [hrs] at ha ⊢
      simp [hr]
    | _ => simp

/-- Everything a step can do: deliver the oldest event, or, with none waiting, answer the fault of a halted block, do
nothing in a key wait, or run one instruction cycle (10_state.md R25, 60_exceptions.md R228). -/
theorem step_cases (s : State) :
    (∃ e rest, s.inbox = e :: rest ∧ step s = (s.setInbox rest).serve e) ∨
    (∃ f, s.inbox = [] ∧ s.rs = .halted f ∧ step s = .fault f) ∨
    (∃ x, s.inbox = [] ∧ s.rs = .awaitKey x ∧ step s = .next s) ∨
    (s.inbox = [] ∧ s.rs = .running ∧ step s = s.cycle) := by
  unfold step State.turn
  cases hi : s.inbox with
  | cons e rest => exact .inl ⟨e, rest, rfl, rfl⟩
  | nil =>
    cases hr : s.rs with
    | halted f => exact .inr (.inl ⟨f, rfl, rfl, rfl⟩)
    | awaitKey x => exact .inr (.inr (.inl ⟨x, rfl, rfl, by simp [State.serve, State.accepts, hr]⟩))
    | running => exact .inr (.inr (.inr ⟨rfl, rfl, by simp [State.serve, State.accepts, hr]⟩))

/-- With an event waiting, a step delivers it (60_exceptions.md R229). -/
theorem step_of_inbox {s : State} {e : Event} {rest : List Event} (h : s.inbox = e :: rest) :
    step s = (s.setInbox rest).serve e := by
  simp only [step, State.turn, h]

/-- A running block with no event waiting runs one instruction cycle (10_state.md R25). -/
theorem step_of_running {s : State} (h : s.inbox = []) (hr : s.rs = .running) : step s = s.cycle := by
  simp only [step, State.turn, h, hr, State.serve, State.accepts, if_true]

/-- A `Step` waiting first is one instruction cycle of a running block (60_exceptions.md R228). -/
theorem step_of_step {s : State} {rest : List Event} (h : s.inbox = .step :: rest) (hr : s.rs = .running) :
    step s = (s.setInbox rest).cycle := by
  rw [step_of_inbox h]
  simp only [State.serve, State.accepts, State.setInbox_rs, hr, if_true]

/-- An event that the run state does not accept changes nothing (60_exceptions.md R225, R228). -/
theorem State.serve_of_not_accepted {s : State} {e : Event} (h : s.accepts e = false) : s.serve e = .next s := by
  simp only [State.serve, h, Bool.false_eq_true, if_false]

/-- Everything a load can do: the image lands and `pc` is set, or the fault with nothing copied (20_memory.md R62). -/
theorem State.loadProgram_cases (s : State) (bytes : List Byte) :
    (512 + bytes.length ≤ 4096 ∧ ∃ m : Memory, s.loadProgram bytes = (s.setMem m).setPc 512 ∧
      (s.mem.wf = true → m.wf = true) ∧
      ∀ b, m.byteAt b =
        if 512 ≤ b ∧ b < 512 + bytes.length then bytes.getD (b - 512) 0 else s.mem.byteAt b) ∨
    (4096 < 512 + bytes.length ∧ s.loadProgram bytes = s.raise (.loadTooLarge bytes.length)) := by
  unfold State.loadProgram
  rw [Config_memSize, Config_loadOffset]
  by_cases h : 512 + bytes.length > 4096
  · exact .inr ⟨h, by simp [h]⟩
  · refine .inl ⟨by omega, ?_⟩
    rcases s.writeBytes_cases 512 bytes with ⟨_, m, hm, hwf, hat⟩ | ⟨hb, _⟩
    · refine ⟨m, ?_, hwf, hat⟩
      simp [h, hm, Except.map]
    · exact absurd (Or.inr (by omega)) hb

/-- Everything a key press can do (60_exceptions.md R230, 44_keys_timers.md R205). -/
theorem State.keyDown_cases (s : State) (k : Fin 16) :
    (∃ x, s.rs = .awaitKey x ∧ s.keyDown k =
      ((s.setKey k true).setV x (BitVec.ofNat 8 k.val)).setRun .running) ∨
    ((∀ x, s.rs ≠ .awaitKey x) ∧ s.keyDown k = s.setKey k true) := by
  unfold State.keyDown
  cases hr : s.rs with
  | awaitKey x => exact .inl ⟨x, rfl, rfl⟩
  | running => exact .inr ⟨by simp, rfl⟩
  | halted f => exact .inr ⟨by simp, rfl⟩

/-- An invariant of the step, packaged once: what every delivery, every accepted event and every instruction cycle of a
running block keeps, every step keeps. -/
theorem step_keeps {P : State → Prop}
    (deliver : ∀ s rest, P s → P (s.setInbox rest))
    (cycle : ∀ s t, P s → s.rs = .running → s.cycle = .next t → P t)
    (reset : ∀ s, P s → P s.resetEvent)
    (load : ∀ s bytes, P s → s.accepts (.loadProgram bytes) = true → P (s.loadProgram bytes))
    (keyDown : ∀ s k, P s → s.accepts (.keyDown k) = true → P (s.keyDown k))
    (keyUp : ∀ s k, P s → s.accepts (.keyUp k) = true → P (s.keyUp k))
    (tick : ∀ s, P s → s.accepts .timerTick = true → P s.timerTick)
    {s t : State} (hs : P s) (h : step s = .next t) : P t := by
  rcases step_cases s with ⟨e, rest, _, he⟩ | ⟨f, _, _, hf⟩ | ⟨x, _, _, hx⟩ | ⟨_, hr, hc⟩
  · have hd := deliver s rest hs
    rw [he] at h
    rcases (s.setInbox rest).serve_cases e with ⟨_, hn⟩ | ⟨ha, hcases⟩
    · rw [hn] at h
      cases h
      exact hd
    · rcases hcases with ⟨_, hn⟩ | ⟨bytes, rfl, hn⟩ | ⟨_, hr, hn⟩ | ⟨k, rfl, hn⟩ | ⟨k, rfl, hn⟩ | ⟨rfl, hn⟩ | ⟨_, _, _, hn⟩
      all_goals rw [hn] at h
      · cases h
        exact reset _ hd
      · cases h
        exact load _ bytes hd ha
      · exact cycle _ t hd hr h
      · cases h
        exact keyDown _ k hd ha
      · cases h
        exact keyUp _ k hd ha
      · cases h
        exact tick _ hd ha
      · cases h
        exact hd
  · rw [hf] at h
    cases h
  · rw [hx] at h
    cases h
    exact hs
  · rw [hc] at h
    exact cycle s t hs hr h

end Sys2Proof.Machine
end

