-- ==== Sys2Proof/Laws/Frame.lean ====
section
/-! SUPPORT. The frame of each shared operation, how frames compose, and the words of the formats as numbers. -/

namespace Sys2Proof.Machine

/-! ### Composing frames -/

theorem UnchangedBut.refl (changed : Part → Prop) (s : State) : UnchangedBut changed s s := by
  intro p _
  cases p <;> rfl

theorem UnchangedBut.mono {c d : Part → Prop} {s t : State} (h : UnchangedBut c s t) (hcd : ∀ p, c p → d p) :
    UnchangedBut d s t := fun p hp => h p fun hc => hp (hcd p hc)

theorem Same.trans {s t u : State} {p : Part} (h : Same s t p) (h' : Same t u p) : Same s u p := by
  cases p <;> exact Eq.trans h' h

theorem UnchangedBut.trans {c : Part → Prop} {s t u : State} (h : UnchangedBut c s t) (h' : UnchangedBut c t u) :
    UnchangedBut c s u := fun p hp => (h p hp).trans (h' p hp)

/-! ### One operation, one part -/

theorem unchangedBut_setV (s : State) (x : Reg) (b : Byte) : UnchangedBut (· = .v x) s (s.setV x b) := by
  intro p hp
  cases p with
  | v r => exact State.getV_setV_ne s b fun h => hp (by rw [h])
  | _ => rfl

theorem unchangedBut_setPc (s : State) (t : Word) : UnchangedBut (· = .pc) s (s.setPc t) := by
  intro p hp
  cases p <;> first | rfl | exact absurd rfl hp

theorem unchangedBut_setI (s : State) (a : Word) : UnchangedBut (· = .i) s (s.setI a) := by
  intro p hp
  cases p <;> first | rfl | exact absurd rfl hp

theorem unchangedBut_setDt (s : State) (b : Byte) : UnchangedBut (· = .dt) s (s.setDt b) := by
  intro p hp
  cases p <;> first | rfl | exact absurd rfl hp

theorem unchangedBut_setSt (s : State) (b : Byte) : UnchangedBut (· = .st) s (s.setSt b) := by
  intro p hp
  cases p <;> first | rfl | exact absurd rfl hp

theorem unchangedBut_setRun (s : State) (r : RunState) : UnchangedBut (· = .rs) s (s.setRun r) := by
  intro p hp
  cases p <;> first | rfl | exact absurd rfl hp

theorem unchangedBut_setInbox (s : State) (rest : List Event) : UnchangedBut (· = .inbox) s (s.setInbox rest) := by
  intro p hp
  cases p <;> first | rfl | exact absurd rfl hp

theorem unchangedBut_setScreen (s : State) (fb : Screen) : UnchangedBut anyPixel s (s.setScreen fb) := by
  intro p hp
  cases p <;> first | rfl | exact absurd ⟨_, _, rfl⟩ hp

theorem unchangedBut_setKey (s : State) (k : Fin 16) (down : Bool) : UnchangedBut (· = .key k) s (s.setKey k down) := by
  intro p hp
  cases p with
  | key j =>
    have hkj : k.val ≠ j.val := fun h => hp (by simp [Fin.ext_iff, h])
    simp [Same, hkj]
  | _ => rfl

/-- A memory that differs only in a range, put in the place of the old one. -/
theorem unchangedBut_setMem {s : State} {m : Memory} {base len : Nat}
    (h : ∀ b, ¬ (base ≤ b ∧ b < base + len) → m.byteAt b = s.mem.byteAt b) :
    UnchangedBut (memRange base len) s (s.setMem m) := by
  intro p hp
  cases p with
  | mem a =>
    refine h a fun ha => hp ⟨a - base, by omega, ?_⟩
    simp only [Part.mem.injEq]
    omega
  | _ => rfl

theorem unchangedBut_skipIf (s : State) (c : Bool) : UnchangedBut (· = .pc) s (s.skipIf c) := by
  cases c
  · exact UnchangedBut.refl _ s
  · exact unchangedBut_setPc s _

theorem unchangedBut_setFlagThen (s : State) (flag : Byte) (x : Reg) (result : Byte) :
    UnchangedBut (fun p => p = .v x ∨ p = .v 15) s (s.setFlagThen flag x result) :=
  ((unchangedBut_setV s flagReg flag).mono fun _ h => .inr h).trans
    ((unchangedBut_setV _ x result).mono fun _ h => .inl h)

/-- What a raise is, as a frame (60_exceptions.md R224). -/
theorem raisedFrom_raise (s : State) (f : Fault) : RaisedFrom s (s.raise f) f := ⟨rfl, unchangedBut_setRun s _⟩

/-- `VF` after a flag-writing instruction whose destination is another register (41_alu.md R137). -/
theorem State.getV_setFlagThen_flag (s : State) (flag : Byte) {x : Reg} (result : Byte) (h : x ≠ 15) :
    (s.setFlagThen flag x result).getV 15 = flag := by
  rw [State.getV_setFlagThen, if_neg (Ne.symm h)]
  exact if_pos rfl

theorem State.skipIf_pc_toNat (s : State) (c : Bool) :
    (s.skipIf c).pc.toNat = if c = true then (s.pc.toNat + 2) % 65536 else s.pc.toNat := by
  cases c <;> simp [State.skipIf, BitVec.toNat_add]

theorem addressOf_toNat (nnn : BitVec 12) : (addressOf nnn).toNat = nnn.toNat := by
  simp only [addressOf, BitVec.truncate_eq_setWidth, BitVec.toNat_setWidth]
  omega

end Sys2Proof.Machine

namespace Sys2Proof

/-! ### Words as numbers -/

theorem formatNNN_toNat (h : BitVec 4) (nnn : BitVec 12) : (formatNNN h nnn).toNat = h.toNat * 4096 + nnn.toNat := by
  have hn := nnn.isLt
  show (h ++ nnn).toNat = _
  rw [BitVec.toNat_append, ← Nat.shiftLeft_add_eq_or_of_lt hn, Nat.shiftLeft_eq]

theorem formatXKK_toNat (h : BitVec 4) (x : Reg) (kk : Byte) :
    (formatXKK h x kk).toNat = h.toNat * 4096 + x.val * 256 + kk.toNat := by
  have hk := kk.isLt
  have hx : (BitVec.ofFin x : BitVec 4).toNat = x.val := rfl
  have hxl := x.isLt
  show (h ++ (BitVec.ofFin x : BitVec 4) ++ kk).toNat = _
  rw [BitVec.toNat_append, BitVec.toNat_append, ← Nat.shiftLeft_add_eq_or_of_lt hk,
    ← Nat.shiftLeft_add_eq_or_of_lt (BitVec.isLt _), Nat.shiftLeft_eq, Nat.shiftLeft_eq, hx]
  omega

theorem formatXYN_toNat (h : BitVec 4) (x y n : Fin 16) :
    (formatXYN h x y n).toNat = h.toNat * 4096 + x.val * 256 + y.val * 16 + n.val := by
  have hx : (BitVec.ofFin x : BitVec 4).toNat = x.val := rfl
  have hy : (BitVec.ofFin y : BitVec 4).toNat = y.val := rfl
  have hn : (BitVec.ofFin n : BitVec 4).toNat = n.val := rfl
  show (h ++ (BitVec.ofFin x : BitVec 4) ++ (BitVec.ofFin y : BitVec 4) ++ (BitVec.ofFin n : BitVec 4)).toNat = _
  rw [BitVec.toNat_append, BitVec.toNat_append, BitVec.toNat_append, ← Nat.shiftLeft_add_eq_or_of_lt (BitVec.isLt _),
    ← Nat.shiftLeft_add_eq_or_of_lt (BitVec.isLt _), ← Nat.shiftLeft_add_eq_or_of_lt (BitVec.isLt _), Nat.shiftLeft_eq,
    Nat.shiftLeft_eq, Nat.shiftLeft_eq, hx, hy, hn]
  omega

end Sys2Proof
end

