-- ==== Sys2Proof/Laws/PerInstr.lean ====
section
/-! SUPPORT. For each instruction: its word has the fixed bits of its row of the opcode table (30_encoding.md R84, R85). -/

namespace Sys2Proof.Laws

/-- The word of `i` has the fixed bits of `i`'s row. -/
def EncodingFits.Statement (i : Instr) : Prop := i.row.fits (encode i) = true

theorem and_nibble (h : BitVec 4) : h &&& 15#4 = h := by
  rw [show 15#4 = BitVec.allOnes 4 from rfl, BitVec.and_allOnes]

theorem and_byte (b : BitVec 8) : b &&& 255#8 = b := by
  rw [show 255#8 = BitVec.allOnes 8 from rfl, BitVec.and_allOnes]

theorem fits_formatNNN (name : String) (h : BitVec 4) (nnn : BitVec 12) :
    Row.fits ⟨name, h ++ (0 : BitVec 12), 0xF000⟩ (formatNNN h nnn) = true := by
  simp only [Row.fits, formatNNN, beq_iff_eq]
  rw [show (0xF000 : Word) = (0xF : BitVec 4) ++ (0 : BitVec 12) from rfl, BitVec.and_append]
  simp [and_nibble]

theorem fits_formatXKK (name : String) (h : BitVec 4) (x : Reg) (kk : Byte) :
    Row.fits ⟨name, h ++ (0 : BitVec 4) ++ (0 : BitVec 8), 0xF000⟩ (formatXKK h x kk) = true := by
  simp only [Row.fits, formatXKK, beq_iff_eq]
  rw [show (0xF000 : Word) = (0xF : BitVec 4) ++ (0 : BitVec 4) ++ (0 : BitVec 8) from rfl,
    BitVec.and_append, BitVec.and_append]
  simp [and_nibble]

theorem fits_formatXSS (name : String) (h : BitVec 4) (x : Reg) (kk : Byte) :
    Row.fits ⟨name, h ++ (0 : BitVec 4) ++ kk, 0xF0FF⟩ (formatXKK h x kk) = true := by
  simp only [Row.fits, formatXKK, beq_iff_eq]
  rw [show (0xF0FF : Word) = (0xF : BitVec 4) ++ (0 : BitVec 4) ++ (0xFF : BitVec 8) from rfl,
    BitVec.and_append, BitVec.and_append]
  simp [and_nibble, and_byte]

theorem fits_formatXYS (name : String) (h : BitVec 4) (x y n : Fin 16) :
    Row.fits ⟨name, h ++ (0 : BitVec 4) ++ (0 : BitVec 4) ++ (BitVec.ofFin n : BitVec 4), 0xF00F⟩
      (formatXYN h x y n) = true := by
  simp only [Row.fits, formatXYN, beq_iff_eq]
  rw [show (0xF00F : Word) = (0xF : BitVec 4) ++ (0 : BitVec 4) ++ (0 : BitVec 4) ++ (0xF : BitVec 4) from rfl,
    BitVec.and_append, BitVec.and_append, BitVec.and_append]
  simp [and_nibble]

theorem fits_formatXYN (name : String) (h : BitVec 4) (x y n : Fin 16) :
    Row.fits ⟨name, h ++ (0 : BitVec 4) ++ (0 : BitVec 4) ++ (0 : BitVec 4), 0xF000⟩ (formatXYN h x y n) = true := by
  simp only [Row.fits, formatXYN, beq_iff_eq]
  rw [show (0xF000 : Word) = (0xF : BitVec 4) ++ (0 : BitVec 4) ++ (0 : BitVec 4) ++ (0 : BitVec 4) from rfl,
    BitVec.and_append, BitVec.and_append, BitVec.and_append]
  simp [and_nibble]

theorem EncodingFits.cls : EncodingFits.Statement (.cls) := rfl

theorem EncodingFits.ret : EncodingFits.Statement (.ret) := rfl

theorem EncodingFits.jp (nnn : BitVec 12) : EncodingFits.Statement (.jp nnn) := fits_formatNNN _ 0x1 nnn

theorem EncodingFits.call (nnn : BitVec 12) : EncodingFits.Statement (.call nnn) := fits_formatNNN _ 0x2 nnn

theorem EncodingFits.seImm (x : Reg) (kk : Byte) : EncodingFits.Statement (.seImm x kk) := fits_formatXKK _ 0x3 x kk

theorem EncodingFits.sneImm (x : Reg) (kk : Byte) : EncodingFits.Statement (.sneImm x kk) := fits_formatXKK _ 0x4 x kk

theorem EncodingFits.seReg (x y : Reg) : EncodingFits.Statement (.seReg x y) := fits_formatXYS _ 0x5 x y 0x0

theorem EncodingFits.ldImm (x : Reg) (kk : Byte) : EncodingFits.Statement (.ldImm x kk) := fits_formatXKK _ 0x6 x kk

theorem EncodingFits.addImm (x : Reg) (kk : Byte) : EncodingFits.Statement (.addImm x kk) := fits_formatXKK _ 0x7 x kk

theorem EncodingFits.ldReg (x y : Reg) : EncodingFits.Statement (.ldReg x y) := fits_formatXYS _ 0x8 x y 0x0

theorem EncodingFits.orReg (x y : Reg) : EncodingFits.Statement (.orReg x y) := fits_formatXYS _ 0x8 x y 0x1

theorem EncodingFits.andReg (x y : Reg) : EncodingFits.Statement (.andReg x y) := fits_formatXYS _ 0x8 x y 0x2

theorem EncodingFits.xorReg (x y : Reg) : EncodingFits.Statement (.xorReg x y) := fits_formatXYS _ 0x8 x y 0x3

theorem EncodingFits.addReg (x y : Reg) : EncodingFits.Statement (.addReg x y) := fits_formatXYS _ 0x8 x y 0x4

theorem EncodingFits.subReg (x y : Reg) : EncodingFits.Statement (.subReg x y) := fits_formatXYS _ 0x8 x y 0x5

theorem EncodingFits.shr (x y : Reg) : EncodingFits.Statement (.shr x y) := fits_formatXYS _ 0x8 x y 0x6

theorem EncodingFits.subnReg (x y : Reg) : EncodingFits.Statement (.subnReg x y) := fits_formatXYS _ 0x8 x y 0x7

theorem EncodingFits.shl (x y : Reg) : EncodingFits.Statement (.shl x y) := fits_formatXYS _ 0x8 x y 0xE

theorem EncodingFits.sneReg (x y : Reg) : EncodingFits.Statement (.sneReg x y) := fits_formatXYS _ 0x9 x y 0x0

theorem EncodingFits.ldI (nnn : BitVec 12) : EncodingFits.Statement (.ldI nnn) := fits_formatNNN _ 0xA nnn

theorem EncodingFits.jpV0 (nnn : BitVec 12) : EncodingFits.Statement (.jpV0 nnn) := fits_formatNNN _ 0xB nnn

theorem EncodingFits.rnd (x : Reg) (kk : Byte) : EncodingFits.Statement (.rnd x kk) := fits_formatXKK _ 0xC x kk

theorem EncodingFits.drw (x y : Reg) (n : Fin 16) : EncodingFits.Statement (.drw x y n) := fits_formatXYN _ 0xD x y n

theorem EncodingFits.skp (x : Reg) : EncodingFits.Statement (.skp x) := fits_formatXSS _ 0xE x 0x9E

theorem EncodingFits.sknp (x : Reg) : EncodingFits.Statement (.sknp x) := fits_formatXSS _ 0xE x 0xA1

theorem EncodingFits.ldVxDt (x : Reg) : EncodingFits.Statement (.ldVxDt x) := fits_formatXSS _ 0xF x 0x07

theorem EncodingFits.ldVxK (x : Reg) : EncodingFits.Statement (.ldVxK x) := fits_formatXSS _ 0xF x 0x0A

theorem EncodingFits.ldDtVx (x : Reg) : EncodingFits.Statement (.ldDtVx x) := fits_formatXSS _ 0xF x 0x15

theorem EncodingFits.ldStVx (x : Reg) : EncodingFits.Statement (.ldStVx x) := fits_formatXSS _ 0xF x 0x18

theorem EncodingFits.addI (x : Reg) : EncodingFits.Statement (.addI x) := fits_formatXSS _ 0xF x 0x1E

theorem EncodingFits.ldF (x : Reg) : EncodingFits.Statement (.ldF x) := fits_formatXSS _ 0xF x 0x29

theorem EncodingFits.ldB (x : Reg) : EncodingFits.Statement (.ldB x) := fits_formatXSS _ 0xF x 0x33

theorem EncodingFits.storeRegs (x : Reg) : EncodingFits.Statement (.storeRegs x) := fits_formatXSS _ 0xF x 0x55

theorem EncodingFits.loadRegs (x : Reg) : EncodingFits.Statement (.loadRegs x) := fits_formatXSS _ 0xF x 0x65

end Sys2Proof.Laws
end

