-- ==== Sys2Proof/Tests/Slice0.lean ====
section
/-! SUPPORT. The model's own tests. Expected results are the spec's: the words come from the patterns of 30_encoding.md
R85 and R87, the results from the vectors of 95_test_vectors.md (their numbers stand beside each test). Then one witness
for every statement that has hypotheses. -/

namespace Sys2Proof.Tests

open Sys2Proof.Machine

/-! ### Helpers -/

/-- The boot state of 70_reset_and_hazards.md R262 with an empty image: reset, and `pc` at 0x200. -/
def boot : State := { State.reset with pc := 0x200 }

/-- One look at the state an outcome goes on with. -/
def view {α : Type} (o : Host.Outcome State Fault Refusal) (look : State → α) : Option α :=
  match o with
  | .next t => some (look t)
  | .fault _ => none
  | .refused _ => none

/-- One look at the state after the word `w`, placed where `s` fetches, has run. -/
def after {α : Type} (w : Nat) (s : State) (look : State → α) : Option α := view (step (s.withFetchWord 16 w)) look

/-- One look at the state after one event. -/
def afterEvent {α : Type} (e : Event) (s : State) (look : State → α) : Option α :=
  view (step (s.setInbox [e])) look

/-- `s` with bytes stored from an address on. -/
def withBytes (s : State) (addr : Nat) (bytes : List Byte) : State := s.commit (s.writeBytes addr bytes)

/-- `s` with `n` stack entries in use. -/
def withDepth (s : State) (n : Fin 17) : State := { s with sp := n }

/-- `s` with the random source about to return `b`. -/
def withRandom (s : State) (b : Byte) : State := { s with tape := [b] }

/-- The columns of a row that are on. -/
def litColumns (s : State) (r : Fin 32) : List (Fin 64) := (List.finRange 64).filter fun c => s.fb.pixel r c

/-- The 16-bit values of `V1`, `V2` and `VF`. -/
def regs12F (s : State) : Byte × Byte × Byte := (s.getV 1, s.getV 2, s.getV 15)

/-! ### Well-formedness: one ill-formed word for each class of 30_encoding.md R87, and the map itself -/

theorem test_illFormed_family0 : wellFormedWord 0x0000 = false ∧ wellFormedWord 0x01E0 = false := by decide

theorem test_illFormed_family5 : wellFormedWord 0x5121 = false := by decide

theorem test_illFormed_family8 : wellFormedWord 0x8128 = false ∧ wellFormedWord 0x812F = false := by decide

theorem test_illFormed_family9 : wellFormedWord 0x9121 = false := by decide

theorem test_illFormed_familyE : wellFormedWord 0xE19F = false := by decide

theorem test_illFormed_familyF : wellFormedWord 0xF1FF = false := by decide

theorem test_wellFormed_accepts : wellFormedWord 0x00E0 = true ∧ wellFormedWord 0x812E = true := by decide

/-- 34 rows, and two of them always differ in a bit that both fix: no word has two meanings. -/
theorem test_opcodeMap_disjoint :
    opcodeMap.length = 34 ∧
    opcodeMap.Pairwise (fun r q => (r.mask &&& q.mask) &&& (r.value ^^^ q.value) ≠ 0) := by decide

/-! ### Decoding: every constructor, from a word written out from its pattern (30_encoding.md R85) -/

theorem test_decode_cls : decode 0b0000_0000_1110_0000 = .ok .cls := by decide

theorem test_decode_ret : decode 0b0000_0000_1110_1110 = .ok .ret := by decide

theorem test_decode_jp : decode 0b0001_1010_1011_1100 = .ok (.jp 0xABC) := by decide

theorem test_decode_call : decode 0b0010_1010_1011_1100 = .ok (.call 0xABC) := by decide

theorem test_decode_seImm : decode 0b0011_0001_0100_0010 = .ok (.seImm 1 0x42) := by decide

theorem test_decode_sneImm : decode 0b0100_0001_0100_0010 = .ok (.sneImm 1 0x42) := by decide

theorem test_decode_seReg : decode 0b0101_0001_0010_0000 = .ok (.seReg 1 2) := by decide

theorem test_decode_ldImm : decode 0b0110_1010_1111_1110 = .ok (.ldImm 0xA 0xFE) := by decide

theorem test_decode_addImm : decode 0b0111_0001_0000_0010 = .ok (.addImm 1 2) := by decide

theorem test_decode_ldReg : decode 0b1000_0001_0010_0000 = .ok (.ldReg 1 2) := by decide

theorem test_decode_orReg : decode 0b1000_0001_0010_0001 = .ok (.orReg 1 2) := by decide

theorem test_decode_andReg : decode 0b1000_0001_0010_0010 = .ok (.andReg 1 2) := by decide

theorem test_decode_xorReg : decode 0b1000_0001_0010_0011 = .ok (.xorReg 1 2) := by decide

theorem test_decode_addReg : decode 0b1000_0001_0010_0100 = .ok (.addReg 1 2) := by decide

theorem test_decode_subReg : decode 0b1000_0001_0010_0101 = .ok (.subReg 1 2) := by decide

theorem test_decode_shr : decode 0b1000_0001_0010_0110 = .ok (.shr 1 2) := by decide

theorem test_decode_subnReg : decode 0b1000_0001_0010_0111 = .ok (.subnReg 1 2) := by decide

theorem test_decode_shl : decode 0b1000_0001_0010_1110 = .ok (.shl 1 2) := by decide

theorem test_decode_sneReg : decode 0b1001_0001_0010_0000 = .ok (.sneReg 1 2) := by decide

theorem test_decode_ldI : decode 0b1010_0011_0000_0001 = .ok (.ldI 0x301) := by decide

theorem test_decode_jpV0 : decode 0b1011_0011_0000_0001 = .ok (.jpV0 0x301) := by decide

theorem test_decode_rnd : decode 0b1100_0001_0000_1111 = .ok (.rnd 1 0x0F) := by decide

theorem test_decode_drw : decode 0b1101_0001_0010_0101 = .ok (.drw 1 2 5) := by decide

theorem test_decode_skp : decode 0b1110_0001_1001_1110 = .ok (.skp 1) := by decide

theorem test_decode_sknp : decode 0b1110_0001_1010_0001 = .ok (.sknp 1) := by decide

theorem test_decode_ldVxDt : decode 0b1111_0001_0000_0111 = .ok (.ldVxDt 1) := by decide

theorem test_decode_ldVxK : decode 0b1111_0010_0000_1010 = .ok (.ldVxK 2) := by decide

theorem test_decode_ldDtVx : decode 0b1111_0001_0001_0101 = .ok (.ldDtVx 1) := by decide

theorem test_decode_ldStVx : decode 0b1111_0001_0001_1000 = .ok (.ldStVx 1) := by decide

theorem test_decode_addI : decode 0b1111_0001_0001_1110 = .ok (.addI 1) := by decide

theorem test_decode_ldF : decode 0b1111_0001_0010_1001 = .ok (.ldF 1) := by decide

theorem test_decode_ldB : decode 0b1111_0001_0011_0011 = .ok (.ldB 1) := by decide

theorem test_decode_storeRegs : decode 0b1111_0010_0101_0101 = .ok (.storeRegs 2) := by decide

theorem test_decode_loadRegs : decode 0b1111_0010_0110_0101 = .ok (.loadRegs 2) := by decide

/-- The bytes of an instruction are big-endian (20_memory.md R56), and fewer than two bytes are none. -/
theorem test_decode_bytes :
    decodeBytes [0x6A, 0xFF, 0x12] = .ok (.ldImm 0xA 0xFF, [0x12]) ∧ decodeBytes [0x6A] = .error .tooShort := by decide

theorem test_decode_table_word : decodeTableWord 16 0x6AFF = some (.ldImm 0xA 0xFF) ∧
    decodeTableWord 16 0x5121 = none := by decide

/-! ### One step of each instruction (95_test_vectors.md part 2) -/

/-- D1, D10. -/
theorem test_cls :
    after 0x00E0 ((boot.setScreen (boot.fb.flip 3 4)).setV 15 1)
      (fun t => (t.fb.pixel 3 4, t.getV 15, t.pc)) = some (false, 1, 0x202) ∧
    after 0x01E0 (boot.setScreen (boot.fb.flip 0 0)) (fun t => t.fb.pixel 0 0) = some true := by decide

/-- F4: the popped entry is kept. -/
theorem test_ret :
    after 0x00EE (boot.commit (boot.push 0x300)) (fun t => (t.pc, t.sp, t.stack[0])) = some (0x300, 0, 0x300) := by
  decide

/-- F5. -/
theorem test_ret_empty :
    after 0x00EE boot (fun t => (t.rs, t.pc, t.sp)) = some (.halted .stackUnderflow, 0x202, 0) := by decide

/-- F2: an odd target is legal. -/
theorem test_jp : after 0x1201 boot (fun t => t.pc) = some 0x201 := by decide

/-- F3. -/
theorem test_call :
    after 0x2ABC boot (fun t => (t.pc, t.sp, t.stack[0])) = some (0xABC, 1, 0x202) := by decide

/-- P5, step 17. -/
theorem test_call_full :
    after 0x2200 (withDepth boot 16) (fun t => (t.rs, t.pc, t.sp)) =
      some (.halted (.stackOverflow 0x202), 0x202, 16) := by decide

/-- F6, F7. -/
theorem test_seImm : after 0x3142 (boot.setV 1 0x42) (fun t => t.pc) = some 0x204 ∧
    after 0x3142 (boot.setV 1 0x43) (fun t => t.pc) = some 0x202 := by decide

/-- F8, F9. -/
theorem test_sneImm : after 0x4142 (boot.setV 1 0x42) (fun t => t.pc) = some 0x202 ∧
    after 0x4142 (boot.setV 1 0x43) (fun t => t.pc) = some 0x204 := by decide

/-- F10, F11. -/
theorem test_seReg : after 0x5120 ((boot.setV 1 7).setV 2 7) (fun t => t.pc) = some 0x204 ∧
    after 0x5120 ((boot.setV 1 7).setV 2 8) (fun t => t.pc) = some 0x202 := by decide

/-- F13, F14. -/
theorem test_sneReg : after 0x9120 ((boot.setV 1 7).setV 2 7) (fun t => t.pc) = some 0x202 ∧
    after 0x9120 ((boot.setV 1 7).setV 2 8) (fun t => t.pc) = some 0x204 := by decide

/-- F15, F16: the sum is not reduced to 12 bits. -/
theorem test_jpV0 : after 0xB300 (boot.setV 0 0x10) (fun t => t.pc) = some 0x310 ∧
    after 0xBFFF (boot.setV 0 0xFF) (fun t => t.pc) = some 0x10FE := by decide

/-- A1. -/
theorem test_ldImm : after 0x6AFF boot (fun t => (t.getV 10, t.pc)) = some (0xFF, 0x202) := by decide

/-- A2: no carry flag. -/
theorem test_addImm : after 0x7102 (boot.setV 1 0xFF) regs12F = some (1, 0, 0) := by decide

/-- A4. -/
theorem test_ldReg :
    after 0x8120 (((boot.setV 1 1).setV 2 0x99).setV 15 1) regs12F = some (0x99, 0x99, 1) := by decide

/-- A5. -/
theorem test_orReg :
    after 0x8121 (((boot.setV 1 0xF0).setV 2 0x0F).setV 15 1) regs12F = some (0xFF, 0x0F, 1) := by decide

/-- A6. -/
theorem test_andReg :
    after 0x8122 (((boot.setV 1 0xF3).setV 2 0x3F).setV 15 1) regs12F = some (0x33, 0x3F, 1) := by decide

/-- A7. -/
theorem test_xorReg :
    after 0x8123 (((boot.setV 1 0xFF).setV 2 0x0F).setV 15 1) regs12F = some (0xF0, 0x0F, 1) := by decide

/-- A9, A12: the boundary of the carry. -/
theorem test_addReg :
    after 0x8124 ((boot.setV 1 0xFF).setV 2 1) regs12F = some (0, 1, 1) ∧
    after 0x8124 ((boot.setV 1 0xFE).setV 2 1) regs12F = some (0xFF, 1, 0) := by decide

/-- A14, A15: the flag register as destination and as operand. -/
theorem test_addReg_flagRegister :
    after 0x8F14 ((boot.setV 15 0xF0).setV 1 0x20) (fun t => t.getV 15) = some 0x10 ∧
    after 0x81F4 ((boot.setV 1 0xFF).setV 15 1) regs12F = some (0, 0, 1) := by decide

/-- A17, A18, A19: equal operands clear the flag. -/
theorem test_subReg :
    after 0x8125 ((boot.setV 1 5).setV 2 3) regs12F = some (2, 3, 1) ∧
    after 0x8125 (((boot.setV 1 3).setV 2 5).setV 15 1) regs12F = some (0xFE, 5, 0) ∧
    after 0x8125 (((boot.setV 1 7).setV 2 7).setV 15 1) regs12F = some (0, 7, 0) := by decide

/-- A21, A22. -/
theorem test_subReg_flagRegister :
    after 0x8F15 ((boot.setV 15 9).setV 1 4) (fun t => t.getV 15) = some 5 ∧
    after 0x81F5 ((boot.setV 1 9).setV 15 4) regs12F = some (5, 0, 1) := by decide

/-- A23, A27: in place, whatever `y` names. -/
theorem test_shr :
    after 0x8126 ((boot.setV 1 5).setV 2 0xAA) regs12F = some (2, 0xAA, 1) ∧
    after 0x8FA6 (boot.setV 15 2) (fun t => t.getV 15) = some 1 := by decide

/-- A28, A29, A31. -/
theorem test_subnReg :
    after 0x8127 ((boot.setV 1 3).setV 2 5) regs12F = some (2, 5, 1) ∧
    after 0x8127 (((boot.setV 1 5).setV 2 3).setV 15 1) regs12F = some (0xFE, 3, 0) ∧
    after 0x8F17 ((boot.setV 15 4).setV 1 9) (fun t => t.getV 15) = some 5 := by decide

/-- A32, A33, A35. -/
theorem test_shl :
    after 0x812E ((boot.setV 1 0x81).setV 2 0x55) regs12F = some (2, 0x55, 1) ∧
    after 0x812E ((boot.setV 1 0x40).setV 15 1) regs12F = some (0x80, 0, 0) ∧
    after 0x8F0E (boot.setV 15 0xC1) (fun t => t.getV 15) = some 0x82 := by decide

/-- A36, A37: a draw is consumed also under mask 0. -/
theorem test_rnd :
    after 0xC10F (withRandom boot 0xA7) (fun t => (t.getV 1, t.tape, t.draws)) = some (7, [], 1) ∧
    after 0xC100 (withRandom (boot.setV 1 0x55) 0xA7) (fun t => (t.getV 1, t.tape, t.draws)) = some (0, [], 1) := by
  decide

/-- M1. -/
theorem test_ldI : after 0xAFFF boot (fun t => t.i) = some 0x0FFF := by decide

/-- M2, M3. -/
theorem test_addI :
    after 0xF11E (((boot.setI 0x0FF8).setV 1 0x10).setV 15 1) (fun t => (t.i, t.getV 15)) = some (0x1008, 1) ∧
    after 0xF11E ((boot.setI 0xFFFF).setV 1 0xFF) (fun t => t.i) = some 0x00FE := by decide

/-- M4, M5: no mask. -/
theorem test_ldF : after 0xF129 (boot.setV 1 0x0A) (fun t => t.i) = some 0x0032 ∧
    after 0xF129 (boot.setV 1 0xFF) (fun t => t.i) = some 0x04FB := by decide

/-- M6, M11: the last legal place. -/
theorem test_ldB :
    after 0xF133 ((boot.setI 0x300).setV 1 0xFE)
      (fun t => ([0x300, 0x301, 0x302].map t.mem.byteAt, t.i)) = some ([2, 5, 4], 0x300) ∧
    after 0xF133 ((boot.setI 0xFFD).setV 1 0x7B)
      (fun t => [0xFFD, 0xFFE, 0xFFF].map t.mem.byteAt) = some [1, 2, 3] := by decide

/-- M12: the bytes below the limit are not written. -/
theorem test_ldB_fault :
    after 0xF033 ((boot.setI 0xFFE).setV 0 0x64)
      (fun t => (t.rs, [0xFFE, 0xFFF].map t.mem.byteAt)) = some (.halted (.memBounds 0x1000), [0, 0]) := by decide

/-- M13. -/
theorem test_storeRegs :
    after 0xF155 ((((boot.setI 0x400).setV 0 0xAA).setV 1 0xBB).setV 2 0xCC)
      (fun t => ([0x400, 0x401, 0x402].map t.mem.byteAt, t.i)) = some ([0xAA, 0xBB, 0], 0x400) := by decide

/-- M15. -/
theorem test_storeRegs_fault :
    after 0xFF55 ((boot.setI 0xFF1).setV 0 1)
      (fun t => (t.rs, t.mem.byteAt 0xFF1)) = some (.halted (.memBounds 0x1000), 0) := by decide

/-- M16: the instruction reads its own image. -/
theorem test_loadRegs :
    after 0xF265 (boot.setI 0x200)
      (fun t => (t.getV 0, t.getV 1, t.getV 2, t.getV 3, t.i)) = some (0xF2, 0x65, 0, 0, 0x200) := by decide

/-- M17, M18. -/
theorem test_loadRegs_edges :
    after 0xF065 (boot.setI 0x1000) (fun t => (t.rs, t.getV 0)) = some (.halted (.memBounds 0x1000), 0) ∧
    after 0xF065 (boot.setI 0) (fun t => t.getV 0) = some 0xF0 := by decide

/-- D2: around the right edge, in the bottom row. -/
theorem test_drw :
    after 0xD011 ((((withBytes boot 0x300 [0xFF]).setI 0x300).setV 0 60).setV 1 31)
      (fun t => (litColumns t 31, t.getV 15)) = some ([0, 1, 2, 3, 60, 61, 62, 63], 0) := by decide

/-- D4, D6, D8: no bytes, the flag register as coordinate, bit 0 at the right. -/
theorem test_drw_corners :
    after 0xD000 ((boot.setI 0xFFF).setV 15 1) (fun t => (t.rs, t.getV 15)) = some (.running, 0) ∧
    after 0xDF11 ((((withBytes boot 0x300 [0x80]).setI 0x300).setV 15 5).setV 1 3)
      (fun t => (litColumns t 3, t.getV 15)) = some ([5], 0) ∧
    after 0xD011 ((withBytes boot 0x300 [1]).setI 0x300) (fun t => litColumns t 0) = some [7] := by decide

/-- K1, K5: the key is the value of the register, not the field. -/
theorem test_skp :
    after 0xE09E ((boot.setV 0 7).setKey 7 true) (fun t => t.pc) = some 0x204 ∧
    after 0xE19E (boot.setKey 1 true) (fun t => t.pc) = some 0x202 := by decide

/-- K6. -/
theorem test_skp_fault :
    after 0xE09E (boot.setV 0 0x10) (fun t => (t.rs, t.pc)) = some (.halted (.keyIndex 0x10), 0x202) := by decide

/-- K3, K4. -/
theorem test_sknp : after 0xE0A1 (boot.setV 0 7) (fun t => t.pc) = some 0x204 ∧
    after 0xE0A1 ((boot.setV 0 7).setKey 7 true) (fun t => t.pc) = some 0x202 := by decide

/-- K8. -/
theorem test_ldVxDt : after 0xF107 (boot.setDt 5) (fun t => (t.getV 1, t.dt)) = some (5, 5) := by decide

/-- K9. -/
theorem test_ldDtVx : after 0xF015 (boot.setV 0 7) (fun t => (t.dt, t.st)) = some (7, 0) := by decide

/-- K10. -/
theorem test_ldStVx : after 0xF218 (boot.setV 2 0x1E) (fun t => (t.dt, t.st)) = some (0, 0x1E) := by decide

/-- K11: a held key does not satisfy the wait. -/
theorem test_ldVxK :
    after 0xF00A (boot.setKey 7 true) (fun t => (t.rs, t.pc, t.getV 0)) = some (.awaitKey 0, 0x202, 0) := by decide

/-! ### Unknown words, fetch, events and reset (95_test_vectors.md 2.6, 2.7) -/

/-- F17, K15. -/
theorem test_unknown :
    after 0x5121 (boot.setV 1 5) (fun t => (t.pc, t.getV 1, t.rs)) = some (0x202, 5, .running) ∧
    after 0xF1FF (boot.setV 1 5) (fun t => (t.pc, t.getV 1, t.rs)) = some (0x202, 5, .running) := by decide

/-- X5 step 3, X6 step 2, P7 step 3. -/
theorem test_fetch_bounds :
    view (step (boot.setPc 0x1000)) (fun t => (t.rs, t.pc)) = some (.halted (.memBounds 0x1000), 0x1000) ∧
    view (step (boot.setPc 0xFFF)) (fun t => (t.rs, t.pc)) = some (.halted (.memBounds 0x1000), 0xFFF) ∧
    view (step (boot.setPc 0x10FE)) (fun t => (t.rs, t.pc)) = some (.halted (.memBounds 0x10FE), 0x10FE) := by decide

/-- K12: the wait ends. -/
theorem test_keyDown_ends_wait :
    afterEvent (.keyDown 7) (boot.setRun (.awaitKey 0)) (fun t => (t.getV 0, t.keys[7], t.rs, t.pc)) =
      some (7, true, .running, 0x200) := by decide

/-- X13: a release does not end it. -/
theorem test_keyUp_in_wait :
    afterEvent (.keyUp 3) ((boot.setKey 3 true).setRun (.awaitKey 0)) (fun t => (t.keys[3], t.rs)) =
      some (false, .awaitKey 0) := by decide

/-- X8, X9, X11. -/
theorem test_timerTick :
    afterEvent .timerTick ((boot.setDt 5).setSt 2) (fun t => (t.dt, t.st)) = some (4, 1) ∧
    afterEvent .timerTick (boot.setDt 1) (fun t => (t.dt, t.st)) = some (0, 0) ∧
    afterEvent .timerTick ((boot.setDt 5).setRun (.awaitKey 0)) (fun t => t.dt) = some 5 := by decide

/-- Two bytes of an image, and `pc`. -/
theorem test_loadProgram :
    afterEvent (.loadProgram [0x60, 0xFE]) State.reset
      (fun t => (t.pc, t.mem.byteAt 0x200, t.mem.byteAt 0x201)) = some (0x200, 0x60, 0xFE) := by decide

/-- X14, X15. -/
theorem test_halted_accepts_only_reset :
    afterEvent (.keyDown 3) (boot.setRun (.halted .stackUnderflow)) (fun t => (t.keys[3], t.rs)) =
      some (false, .halted .stackUnderflow) ∧
    afterEvent .reset (boot.setRun (.halted .stackUnderflow)) (fun t => (t.pc, t.rs)) = some (0, .running) := by decide

/-- The placed word is the first instruction after reset. -/
theorem test_withFetchWord : after 0x6AFF State.reset (fun t => (t.getV 10, t.pc)) = some (0xFF, 2) := by decide

/-- It is placed also where no word could have been fetched. -/
theorem test_withFetchWord_moves_pc : after 0x6AFF (boot.setPc 0xFFF) (fun t => (t.getV 10, t.pc)) =
    some (0xFF, 0x202) := by decide

/-- A byte that equals its reset contents is not listed: equal memories are equal lists. -/
theorem test_memory_canonical :
    Memory.setByte (Memory.setByte (Memory.setByte [] 0x300 1) 0x200 2) 0x300 0 = [(0x200, 2)] ∧
    Memory.setByte (Memory.setByte [] 0 0) 0 0xF0 = [] := by decide

/-- The digit glyphs at both ends of the table (20_memory.md R60). -/
theorem test_glyphs : (List.range 5).map (Memory.byteAt []) = [0xF0, 0x90, 0x90, 0x90, 0xF0] ∧
    (List.range 5).map (fun k => Memory.byteAt [] (75 + k)) = [0xF0, 0x80, 0xF0, 0x80, 0x80] := by decide

/-! ### Witnesses: the hypotheses of each statement are met, at the ends of their ranges -/

/-- The first clause asks for a decodable word, the second for an undecodable one. -/
theorem witness_DecodeAgreesWithOpcodeMap :
    decode 0x8126 = .ok (.shr 1 2) ∧ decode 0x8128 = .error .family8 := by decide

theorem witness_EncodeInvertsDecode : decode 0xFF65 = .ok (.loadRegs 15) := by decide

/-- One word of every class, at the boundary of each. -/
theorem witness_UnknownWordsByClass :
    decode 0x0FFF = .error .family0 ∧ decode 0x500F = .error .family5 ∧ decode 0x8FFF = .error .family8 ∧
    decode 0x9FF1 = .error .family9 ∧ decode 0xE09F = .error .familyE ∧ decode 0xFFFF = .error .familyF := by decide

/-- The last address a word can be fetched from; free running, and with a `Step` waiting. -/
theorem witness_StepRunsTheDecodedInstruction :
    let s := withBytes (boot.setPc 0xFFE) 0xFFE [0x6A, 0x55]
    s.rs = .running ∧ s.pc.toNat ≤ 0xFFE ∧ s.inbox = [] ∧ (s.setInbox [.step]).inbox = .step :: [] ∧
    decode (wordOfBytes (s.mem.byteAt s.pc.toNat) (s.mem.byteAt (s.pc.toNat + 1))) = .ok (.ldImm 0xA 0x55) := by decide

/-- The last address a word can be fetched from; free running, and with a `Step` waiting. -/
theorem witness_StepPassesOverUnknownWord :
    let s := boot.setPc 0xFFE
    s.rs = .running ∧ s.pc.toNat ≤ 0xFFE ∧ s.inbox = [] ∧ (s.setInbox [.step]).inbox = .step :: [] ∧
    decode (wordOfBytes (s.mem.byteAt s.pc.toNat) (s.mem.byteAt (s.pc.toNat + 1))) = .error .family0 := by decide

/-- The three kinds of `pc`; free running, and with a `Step` waiting. -/
theorem witness_FetchOutsideMemoryHalts :
    (boot.setPc 0xFFF).rs = .running ∧ (boot.setPc 0xFFF).inbox = [] ∧
    ((boot.setPc 0xFFF).setInbox [.step]).inbox = .step :: [] ∧ 0xFFF ≤ (boot.setPc 0xFFF).pc.toNat ∧
    0xFFF ≤ (boot.setPc 0x1000).pc.toNat ∧ 0xFFF ≤ (boot.setPc 0xFFFF).pc.toNat := by decide

theorem witness_HaltedBlockAnswersItsFault :
    (boot.setRun (.halted .stackUnderflow)).inbox = [] ∧
    (boot.setRun (.halted .stackUnderflow)).rs = .halted .stackUnderflow := by decide

theorem witness_KeyWaitWithoutEventHangs :
    (boot.setRun (.awaitKey 15)).inbox = [] ∧ (boot.setRun (.awaitKey 15)).rs = .awaitKey 15 := by decide

/-- Both clauses: a halted block and a waiting one. -/
theorem witness_UnacceptedEventsChangeNothing :
    ((∃ f, (boot.setRun (.halted .stackUnderflow)).rs = .halted f) ∧ Event.keyDown 3 ≠ .reset) ∧
    ((∃ x, (boot.setRun (.awaitKey 2)).rs = .awaitKey x) ∧ (Event.timerTick = .step ∨ Event.timerTick = .timerTick)) ∧
    (boot.setInbox [.timerTick]).inbox = .timerTick :: [] := by
  exact ⟨⟨⟨_, rfl⟩, by decide⟩, ⟨⟨_, rfl⟩, by decide⟩, rfl⟩

theorem witness_JumpToItselfIsAnEndState :
    let s := withBytes (boot.setPc 0xFFE) 0xFFE [0x1F, 0xFE]
    s.rs = .running ∧ s.inbox = [] ∧ (0xFFE : BitVec 12).toNat ≤ 0xFFE ∧ s.pc.toNat = (0xFFE : BitVec 12).toNat ∧
    wordOfBytes (s.mem.byteAt s.pc.toNat) (s.mem.byteAt (s.pc.toNat + 1)) = encode (.jp 0xFFE) := by decide

theorem witness_ResetEventRestoresEverything :
    ((boot.setRun (.halted .stackUnderflow)).setInbox [.reset]).inbox = .reset :: [] := by decide

/-- The longest image that fits, the shortest that does not, and the empty one. -/
theorem witness_LoadProgramCopiesOrFaults :
    (boot.setInbox [.loadProgram (List.replicate 3584 0xAB)]).inbox =
      .loadProgram (List.replicate 3584 0xAB) :: [] ∧
    Safe (boot.setInbox [.loadProgram (List.replicate 3584 0xAB)]) ∧
    512 + (List.replicate 3584 (0xAB : Byte)).length ≤ 4096 ∧
    ¬ 512 + (List.replicate 3585 (0xAB : Byte)).length ≤ 4096 ∧
    512 + ([] : List Byte).length ≤ 4096 := by
  refine ⟨rfl, fun f h => ?_, ?_, ?_, by decide⟩
  · cases h
  · rw [List.length_replicate]
  · rw [List.length_replicate]
    decide

/-- In a key wait, and running. -/
theorem witness_KeyDownSetsFlagAndEndsWait :
    ((boot.setRun (.awaitKey 15)).setInbox [.keyDown 15]).inbox = .keyDown 15 :: [] ∧
    Safe ((boot.setRun (.awaitKey 15)).setInbox [.keyDown 15]) ∧
    ((boot.setRun (.awaitKey 15)).setInbox [.keyDown 15]).rs = .awaitKey 15 ∧
    Safe (boot.setInbox [.keyDown 0]) ∧ (boot.setInbox [.keyDown 0]).rs = .running := by
  exact ⟨rfl, (fun f h => by cases h), rfl, (fun f h => by cases h), rfl⟩

theorem witness_KeyUpClearsItsFlagOnly :
    (boot.setInbox [.keyUp 15]).inbox = .keyUp 15 :: [] ∧ Safe (boot.setInbox [.keyUp 15]) := by
  exact ⟨rfl, fun f h => by cases h⟩

theorem witness_TimerTickCountsBothDown :
    ((boot.setDt 1).setInbox [.timerTick]).inbox = .timerTick :: [] ∧
    ((boot.setDt 1).setInbox [.timerTick]).rs = .running := by decide

theorem witness_PixelQueryReadsAndChangesNothing :
    ((boot.setRun (.halted .stackUnderflow)).setInbox [.pixelQuery 63 31]).inbox = .pixelQuery 63 31 :: [] := by decide

theorem witness_KeyWaitCompletesAtFirstKeyDown :
    let before : List Event := [.timerTick, .keyUp 3, .step, .pixelQuery 63 31]
    let s := (boot.setRun (.awaitKey 0)).setInbox (before ++ [.keyDown 7, .step])
    s.rs = .awaitKey 0 ∧ s.inbox = before ++ .keyDown 7 :: [.step] ∧
    ∀ e ∈ before, e = .step ∨ e = .timerTick ∨ (∃ j, e = .keyUp j) ∨ ∃ c r, e = .pixelQuery c r := by
  exact ⟨rfl, rfl, by simp⟩

/-- The clause about 0xFFF. -/
theorem witness_JumpSetsPc : (0xFFF : BitVec 12) = 0xFFF ∧
    view (exec (.jp 0xFFF) boot) (fun t => t.pc) = some 0xFFF := by decide

/-- A skip beyond memory, and one that is not taken there. -/
theorem witness_ImmediateSkips :
    view (exec (.seImm 1 0) (boot.setPc 0x1000)) (fun t => t.pc.toNat) = some 0x1002 ∧
    view (exec (.sneImm 1 0) (boot.setPc 0x1000)) (fun t => t.pc.toNat) = some 0x1000 := by decide

/-- Sums at the three boundaries of the last clause. -/
theorem witness_ComputedJumpAddsV0 :
    view (exec (.jpV0 0xFFF) boot) (fun t => t.pc.toNat) = some 0xFFF ∧
    view (exec (.jpV0 0xFFF) (boot.setV 0 1)) (fun t => t.pc.toNat) = some 0x1000 ∧
    view (exec (.jpV0 0xFFE) boot) (fun t => t.pc.toNat) = some 0xFFE := by decide

/-- The first and the last free entry. -/
theorem witness_CallPushesAndJumps :
    boot.sp.val = (0 : Fin 16).val ∧ (withDepth boot 15).sp.val = (15 : Fin 16).val := by decide

/-- The first and the last entry in use. -/
theorem witness_ReturnPopsIntoPc :
    (withDepth boot 1).sp.val = (0 : Fin 16).val + 1 ∧ (withDepth boot 16).sp.val = (15 : Fin 16).val + 1 := by decide

theorem witness_StackFaultsArePrecise : (withDepth boot 16).sp.val = 16 ∧ boot.sp.val = 0 := by decide

theorem witness_PushPopRoundTrip : (withDepth boot 14).sp.val ≤ 14 ∧ (withDepth boot 16).sp.val = 16 := by decide

/-- The flag clause of `8xy4`, the five flag writers of 41_alu.md having the same hypothesis `x ≠ 15`. -/
theorem witness_AddRegistersSetsCarry : (14 : Reg) ≠ 15 := by decide

theorem witness_SubtractSetsNoBorrow : (14 : Reg) ≠ 15 := by decide

theorem witness_ShiftsReportTheBitShiftedOut : (0 : Reg) ≠ 15 := by decide

/-- An injected byte, and none. -/
theorem witness_RandomIsMasked : (withRandom boot 0xA7).tape = 0xA7 :: [] ∧ boot.tape = [] := by decide

theorem witness_DecimalDigitsAreStored : (boot.setI 0xFFD).i.toNat + 2 ≤ 0xFFF := by decide

theorem witness_RegistersAreStored : (boot.setI 0xFF0).i.toNat + (15 : Reg).val ≤ 0xFFF := by decide

theorem witness_RegistersAreLoaded : (boot.setI 0xFFF).i.toNat + (0 : Reg).val ≤ 0xFFF := by decide

/-- Each clause one byte beyond its limit. -/
theorem witness_MemoryFaultsArePrecise :
    0xFFF < (boot.setI 0xFFE).i.toNat + 2 ∧ 0xFFF < (boot.setI 0xFF1).i.toNat + (15 : Reg).val ∧
    1 ≤ (3 : Fin 16).val ∧ 0x1000 < (boot.setI 0xFFE).i.toNat + (3 : Fin 16).val := by decide

/-- Both ends of the address space and the first address beyond it. -/
theorem witness_ReadAfterWrite :
    (boot.memWrite 0xFFF 5).toOption.map (fun t => t.memRead 0xFFF) = some (.ok 5) ∧
    (boot.memWrite 0 5).toOption.map (fun t => t.memRead 0) = some (.ok 5) ∧
    boot.memRead 4096 = .error (.memBounds 4096) := by decide

theorem witness_BlitIsPixelwiseXor : (List.replicate 15 (0xFF : Byte)).length ≤ 15 := by decide

/-- No bytes at all, and the last byte of memory as the last byte of the sprite. -/
theorem witness_DrawXorsAndReportsCollision :
    ((0 : Fin 16).val = 0 ∨ (boot.setI 0xFFFF).i.toNat + (0 : Fin 16).val ≤ 0x1000) ∧
    ((15 : Fin 16).val = 0 ∨ (boot.setI 0xFF1).i.toNat + (15 : Fin 16).val ≤ 0x1000) := by decide

/-- The flag register as a coordinate and not; on a clear screen, a sprite that has a 1 bit, and one that has none. -/
theorem witness_DrawingTwiceRestoresTheScreen :
    (14 : Reg) ≠ 15 ∧ (0 : Reg) ≠ 15 ∧ ((5 : Fin 16).val = 0 ∨ (boot.setI 0).i.toNat + (5 : Fin 16).val ≤ 0x1000) ∧
    litColumns boot 0 = [] ∧ (∃ b ∈ spriteBytes (boot.setI 0) 5, b ≠ 0) ∧
    (¬ ∃ b ∈ spriteBytes (boot.setI 0x300) 5, b ≠ 0) ∧
    (view (exec (.drw 15 0 5) ((boot.setI 0).setV 15 9)) fun t =>
      view (exec (.drw 15 0 5) (t.setV 15 9)) fun u => decide (u.fb = boot.fb)) = some (some true) := by decide

theorem witness_KeySkips :
    ((boot.setV 3 15).getV 3).toNat = (15 : Fin 16).val ∧ (boot.getV 3).toNat = (0 : Fin 16).val := by decide

theorem witness_KeyIndexFaultsArePrecise : 15 < ((boot.setV 3 16).getV 3).toNat := by decide

/-- An instruction that goes on and is not the random one. -/
theorem witness_InstructionsNeverWriteInputs :
    (∃ t, exec .cls boot = .next t) ∧ ∀ x kk, Instr.cls ≠ .rnd x kk :=
  ⟨⟨_, rfl⟩, fun _ _ h => by cases h⟩

/-- Each part does change under one of its writers. -/
theorem witness_EachPartHasItsWriters :
    view (exec (.ldI 5) boot) (fun t => decide (t.i ≠ boot.i)) = some true ∧
    view (exec (.call 5) boot) (fun t => decide (t.stack ≠ boot.stack ∧ t.sp ≠ boot.sp)) = some true ∧
    view (exec (.ldB 0) ((boot.setI 0x300).setV 0 9)) (fun t => decide (t.mem ≠ boot.mem)) = some true ∧
    view (exec .cls (boot.setScreen (boot.fb.flip 0 0))) (fun t => t.fb.pixel 0 0) = some false ∧
    view (exec (.ldDtVx 0) (boot.setV 0 9)) (fun t => decide (t.dt ≠ boot.dt)) = some true ∧
    view (exec (.ldStVx 0) (boot.setV 0 9)) (fun t => decide (t.st ≠ boot.st)) = some true := by decide

theorem witness_RegistersChangeOnlyAsDestinations :
    view (exec (.ldImm 4 9) boot) (fun t => decide (t.getV 4 ≠ boot.getV 4)) = some true ∧
    view (exec (.shr 4 0) (boot.setV 4 3)) (fun t => decide (t.getV 15 ≠ boot.getV 15)) = some true := by decide

theorem witness_FaultsArePreciseAndExhaustive :
    Safe boot ∧ ∃ t, exec .ret boot = .next t ∧ t.rs = .halted .stackUnderflow :=
  ⟨(fun f h => by cases h), _, rfl, rfl⟩

/-- A state no run reaches is covered too: here memory that is not canonical is shut out by the premise. -/
theorem witness_StepKeepsMemoryCanonical :
    MemCanonical boot ∧ (∃ t, step boot = .next t) ∧ ¬ MemCanonical { boot with mem := [(5, 1), (4, 1)] } := by
  unfold MemCanonical
  exact ⟨by decide, ⟨_, rfl⟩, by decide⟩

theorem witness_StepKeepsControlInRange :
    ControlInRange (boot.setPc 0x10FE) ∧ (∃ t, step (boot.setPc 0x10FE) = .next t) := by
  unfold ControlInRange
  exact ⟨by decide, ⟨_, rfl⟩⟩

/-- Running; halted on an empty stack; halted by the two kinds of address, and not by an address that neither explains. -/
theorem witness_StepKeepsHaltExplained :
    HaltExplained boot ∧ (∃ t, step boot = .next t) ∧
    HaltExplained (boot.setRun (.halted .stackUnderflow)) ∧
    HaltExplained ((boot.setPc 0xFFF).setRun (.halted (.memBounds 0x1000))) ∧
    HaltExplained ((boot.setI 0xFF1).setRun (.halted (.memBounds 0x1000))) ∧
    ¬ HaltExplained (boot.setRun (.halted (.memBounds 0x1000))) := by
  exact ⟨trivial, ⟨_, rfl⟩, rfl, .inl (by decide), .inr (by decide), fun h => h.elim (by decide) (by decide)⟩

end Sys2Proof.Tests
end

/-! The call stack and the fetch as equations, everything `exec` can do said once (`Effect`), and the statements of
10_state.md derived from it. -/

namespace Sys2Proof.Machine

/-! ### The call stack (10_state.md R29 to R31) -/

/-- The state after `push(v)` on a stack that is not full (10_state.md R30). -/
def State.pushed (s : State) (v : Word) (h : s.sp.val < 16) : State :=
  { s with stack := s.stack.set s.sp.val v, sp := ⟨s.sp.val + 1, by omega⟩ }

/-- `SP <- n`, the entries as they are (10_state.md R29). -/
def State.setSp (s : State) (n : Fin 17) : State := { s with sp := n }

theorem State.push_of_lt {s : State} (v : Word) (h : s.sp.val < 16) : s.push v = .ok (s.pushed v h) := by
  simp [State.push, State.pushed, h]

theorem State.push_of_full {s : State} (v : Word) (h : s.sp.val = 16) : s.push v = .error (.stackOverflow v) := by
  simp [State.push, h]

/-- With entry `n` on top, a pop answers it and leaves `n` entries in use (10_state.md R31). -/
theorem State.pop_of_top {s : State} {n : Fin 16} {v : Word} (h : s.sp.val = n.val + 1) (hv : s.stack[n] = v) :
    s.pop = .ok (v, s.setSp n.castSucc) := by
  have hn : n.castSucc = ⟨n.val, by omega⟩ := rfl
  simp [State.pop, State.setSp, h, ← hv, hn]

theorem State.pop_of_empty {s : State} (h : s.sp.val = 0) : s.pop = .error .stackUnderflow := by
  simp [State.pop, h]

theorem State.pushed_stack_top (s : State) (v : Word) {n : Fin 16} (h : s.sp.val < 16) (hn : n.val = s.sp.val) :
    (s.pushed v h).stack[n] = v := by
  simp [State.pushed, hn]

theorem State.pushed_stack_below (s : State) (v : Word) {k : Fin 16} (h : s.sp.val < 16) (hk : k.val ≠ s.sp.val) :
    (s.pushed v h).stack[k] = s.stack[k] := by
  simp [State.pushed, Ne.symm hk]

theorem exec_call_of_lt {s : State} (nnn : BitVec 12) (h : s.sp.val < 16) :
    exec (.call nnn) s = .next ((s.pushed s.pc h).setPc (addressOf nnn)) := by
  simp only [exec, execCall, State.push_of_lt _ h, Except.map, State.commit_ok]

theorem exec_ret_of_top {s : State} {n : Fin 16} {v : Word} (h : s.sp.val = n.val + 1) (hv : s.stack[n] = v) :
    exec .ret s = .next ((s.setSp n.castSucc).setPc v) := by
  simp only [exec, execRet, State.pop_of_top h hv, Except.map, State.commit_ok]

/-! ### The fetch (10_state.md R25) -/

/-- Two bytes in memory that decode are executed, `pc` already past them. -/
theorem State.cycle_of_decode {s : State} {ins : Instr} (hpc : s.pc.toNat ≤ 0xFFE)
    (hd : decode (wordOfBytes (s.mem.byteAt s.pc.toNat) (s.mem.byteAt (s.pc.toNat + 1))) = .ok ins) :
    s.cycle = exec ins s.advance := by
  have hf := s.fetch_eq
  rw [if_pos (by omega)] at hf
  simp only [State.cycle, hf, hd]

theorem State.cycle_of_fetch_outside {s : State} (hpc : 0xFFF ≤ s.pc.toNat) :
    s.cycle = .next (s.raise (.memBounds (if s.pc.toNat = 0xFFF then 0x1000 else s.pc.toNat))) := by
  have hf := s.fetch_eq
  have haddr : max s.pc.toNat 4096 = if s.pc.toNat = 0xFFF then 0x1000 else s.pc.toNat := by
    split <;> omega
  rw [if_neg (by omega), haddr] at hf
  simp only [State.cycle, hf]

theorem State.pc_le_of_fetch {s : State} {op : Word} (h : s.fetch = .ok op) : s.pc.toNat ≤ 0xFFE := by
  by_contra hpc
  rw [State.fetch_eq, if_neg (by omega)] at h
  cases h

/-! ### Everything an instruction can do -/

/-- What executing an instruction in `s` can lead to, one shape for all instructions that share it: a precise fault, or the
write of one part of the state (10_state.md R22 to R34, 60_exceptions.md R222, R224). -/
inductive Effect (s : State) : Instr → State → Prop
  | fault {ins : Instr} {f : Fault} (hf : mayRaise ins f = true) (he : HaltExplained (s.raise f)) :
      Effect s ins (s.raise f)
  | register {ins : Instr} {x : Reg} (b : Byte) (hx : destination x ins = true) : Effect s ins (s.setV x b)
  | flagged {ins : Instr} {x : Reg} (flag result : Byte) (hx : destination x ins = true)
      (hf : flagWriter ins = true) : Effect s ins (s.setFlagThen flag x result)
  | random (x : Reg) (kk b : Byte) : Effect s (.rnd x kk) (s.consumeRandom.setV x b)
  | registerBlock {x : Reg} {bytes : List Byte} (hlen : bytes.length = x.val + 1) :
      Effect s (.loadRegs x) (s.loadBlock bytes)
  | skip {ins : Instr} (c : Bool) : Effect s ins (s.skipIf c)
  | jump {ins : Instr} {target : Word} (ht : target.toNat ≤ 0x10FE) : Effect s ins (s.setPc target)
  | call (nnn : BitVec 12) (h : s.sp.val < 16) :
      Effect s (.call nnn) ((s.pushed s.pc h).setPc (addressOf nnn))
  | ret {n : Fin 16} (h : s.sp.val = n.val + 1) : Effect s .ret ((s.setSp n.castSucc).setPc s.stack[n])
  | index {ins : Instr} (a : Word) (hi : (∃ nnn, ins = .ldI nnn) ∨ (∃ x, ins = .addI x) ∨ ∃ x, ins = .ldF x) :
      Effect s ins (s.setI a)
  | memory {ins : Instr} {m : Memory} (hi : (∃ x, ins = .ldB x) ∨ ∃ x, ins = .storeRegs x)
      (hwf : s.mem.wf = true → m.wf = true) : Effect s ins (s.setMem m)
  | clear : Effect s .cls (s.setScreen Screen.clear)
  | draw (x y : Reg) (n : Fin 16) (bytes : List Byte) : Effect s (.drw x y n) (s.draw x y bytes)
  | delay (x : Reg) : Effect s (.ldDtVx x) (s.setDt (s.getV x))
  | sound (x : Reg) : Effect s (.ldStVx x) (s.setSt (s.getV x))
  | wait (x : Reg) : Effect s (.ldVxK x) (s.setRun (.awaitKey x))

/-- An access of at most 16 bytes from `I` on that leaves memory is explained by `I` (60_exceptions.md R223). -/
theorem haltExplained_raise_memBounds {s : State} {len : Nat} (hlen : len ≤ 16) (h : 4096 < s.base + len) :
    HaltExplained (s.raise (.memBounds (max s.base 4096))) := by
  have hi : 0xFF1 ≤ s.i.toNat := by
    simp only [State.base] at h
    omega
  exact .inr ⟨hi, rfl⟩

theorem Effect.of_readBytes {s : State} {ins : Instr} {n : Nat} {f : List Byte → State} (hn : n ≤ 16)
    (hf : ∀ addr, mayRaise ins (.memBounds addr) = true)
    (hok : ∀ bytes : List Byte, bytes.length = n → Effect s ins (f bytes)) :
    Effect s ins (s.commit ((s.readBytes s.base n).map f)) := by
  rw [State.readBytes_eq]
  split
  · exact hok _ (by simp)
  · exact .fault (hf _) (haltExplained_raise_memBounds hn (by omega))

theorem Effect.of_writeBytes {s : State} {ins : Instr} {bytes : List Byte} (hlen : bytes.length ≤ 16)
    (hi : (∃ x, ins = .ldB x) ∨ ∃ x, ins = .storeRegs x) :
    Effect s ins (s.commit (s.writeBytes s.base bytes)) := by
  rcases s.writeBytes_cases s.base bytes with ⟨_, m, hm, hwf, _⟩ | ⟨hout, herr⟩
  · rw [hm]
    exact .memory hi hwf
  · have hf : mayRaise ins (.memBounds (max s.base 4096)) = true := by
      rcases hi with ⟨x, rfl⟩ | ⟨x, rfl⟩ <;> rfl
    rw [herr]
    exact .fault hf (haltExplained_raise_memBounds hlen (by omega))

theorem Effect.of_keyOf {s : State} {ins : Instr} {x : Reg} {f : Fin 16 → State}
    (hf : mayRaise ins (.keyIndex (s.getV x)) = true) (hok : ∀ k, Effect s ins (f k)) :
    Effect s ins (s.commit ((s.keyOf x).map f)) := by
  rcases s.keyOf_cases x with ⟨h, hk⟩ | ⟨h, hk⟩ <;> rw [hk]
  · exact hok _
  · exact .fault hf ⟨h, x, rfl⟩

/-- The largest computed jump: 0xFFF plus 0xFF (40_flow.md R118). -/
theorem computedTarget_le (s : State) (nnn : BitVec 12) : (addressOf nnn + s.getV16 0).toNat ≤ 0x10FE := by
  have hn := nnn.isLt
  have hv := (s.getV 0).isLt
  have hv16 : (s.getV16 0).toNat = (s.getV 0).toNat := by
    simp only [State.getV16, BitVec.truncate_eq_setWidth, BitVec.toNat_setWidth]
    omega
  rw [BitVec.toNat_add, addressOf_toNat, hv16]
  omega

/-- Every instruction goes on, with one of the effects (10_state.md R25 step 4). -/
theorem exec_effect (ins : Instr) (s : State) : ∃ t, exec ins s = .next t ∧ Effect s ins t := by
  cases ins with
  | cls => exact ⟨_, rfl, .clear⟩
  | ret =>
    by_cases h : s.sp.val = 0
    · refine ⟨s.raise .stackUnderflow, ?_, .fault rfl h⟩
      simp only [exec, execRet, State.pop_of_empty h, Except.map, State.commit_error]
    · have htop : s.sp.val = (⟨s.sp.val - 1, by omega⟩ : Fin 16).val + 1 := by
        simp only
        omega
      exact ⟨_, exec_ret_of_top htop rfl, .ret htop⟩
  | call nnn =>
    by_cases h : s.sp.val < 16
    · exact ⟨_, exec_call_of_lt nnn h, .call nnn h⟩
    · have hfull : s.sp.val = 16 := by omega
      refine ⟨s.raise (.stackOverflow s.pc), ?_, .fault rfl ⟨hfull, rfl⟩⟩
      simp only [exec, execCall, State.push_of_full _ hfull, Except.map, State.commit_error]
  | jp nnn =>
    have hn := nnn.isLt
    exact ⟨_, rfl, .jump (by rw [addressOf_toNat]; omega)⟩
  | jpV0 nnn => exact ⟨_, rfl, .jump (computedTarget_le s nnn)⟩
  | seImm | sneImm | seReg | sneReg => exact ⟨_, rfl, .skip _⟩
  | skp x | sknp x => exact ⟨_, rfl, .of_keyOf rfl fun _ => .skip _⟩
  | ldImm x | addImm x | ldReg x | orReg x | andReg x | xorReg x | ldVxDt x =>
    exact ⟨_, rfl, .register _ (beq_self_eq_true x)⟩
  | addReg x | subReg x | shr x | subnReg x | shl x =>
    exact ⟨_, rfl, .flagged _ _ (beq_self_eq_true x) rfl⟩
  | rnd x kk => exact ⟨_, rfl, .random x kk _⟩
  | ldI nnn => exact ⟨_, rfl, .index _ (.inl ⟨nnn, rfl⟩)⟩
  | addI x => exact ⟨_, rfl, .index _ (.inr (.inl ⟨x, rfl⟩))⟩
  | ldF x => exact ⟨_, rfl, .index _ (.inr (.inr ⟨x, rfl⟩))⟩
  | drw x y n =>
    exact ⟨_, rfl, .of_readBytes (Nat.le_of_lt n.isLt) (fun _ => rfl) fun bytes _ => .draw x y n bytes⟩
  | loadRegs x => exact ⟨_, rfl, .of_readBytes x.isLt (fun _ => rfl) fun _ hlen => .registerBlock hlen⟩
  | ldB x => exact ⟨_, rfl, .of_writeBytes (by decide : 3 ≤ 16) (.inl ⟨x, rfl⟩)⟩
  | storeRegs x =>
    have hlen : (s.registerBlock x).length ≤ 16 := by
      rw [State.registerBlock_length]
      exact x.isLt
    exact ⟨_, rfl, .of_writeBytes hlen (.inr ⟨x, rfl⟩)⟩
  | ldVxK x => exact ⟨_, rfl, .wait x⟩
  | ldDtVx x => exact ⟨_, rfl, .delay x⟩
  | ldStVx x => exact ⟨_, rfl, .sound x⟩

theorem Effect.of_exec {ins : Instr} {s t : State} (h : exec ins s = .next t) : Effect s ins t := by
  obtain ⟨u, hu, he⟩ := exec_effect ins s
  rw [hu] at h
  cases h
  exact he

/-! ### Who writes each part (10_state.md R22 to R35, 20_memory.md R51) -/

section Writers

variable {s t : State} {ins : Instr}

theorem Effect.keys_eq (h : Effect s ins t) : t.keys = s.keys := by
  cases h with
  | skip c => exact s.skipIf_keys c
  | _ => rfl

theorem Effect.inbox_eq (h : Effect s ins t) : t.inbox = s.inbox := by
  cases h with
  | skip c => exact s.skipIf_inbox c
  | _ => rfl

theorem Effect.random_source (h : Effect s ins t) :
    (t.tape = s.tape ∧ t.draws = s.draws) ∨ ∃ x kk, ins = .rnd x kk := by
  cases h with
  | random x kk b => exact .inr ⟨x, kk, rfl⟩
  | skip c => exact .inl ⟨s.skipIf_tape c, s.skipIf_draws c⟩
  | _ => exact .inl ⟨rfl, rfl⟩

theorem Effect.i_writer (h : Effect s ins t) :
    t.i = s.i ∨ (∃ nnn, ins = .ldI nnn) ∨ (∃ x, ins = .addI x) ∨ ∃ x, ins = .ldF x := by
  cases h with
  | index a hi => exact .inr hi
  | skip c => exact .inl (s.skipIf_i c)
  | _ => exact .inl rfl

theorem Effect.stack_writer (h : Effect s ins t) :
    (t.stack = s.stack ∧ t.sp = s.sp) ∨ (∃ nnn, ins = .call nnn) ∨ ins = .ret := by
  cases h with
  | call nnn _ => exact .inr (.inl ⟨nnn, rfl⟩)
  | ret _ => exact .inr (.inr rfl)
  | skip c => exact .inl ⟨s.skipIf_stack c, s.skipIf_sp c⟩
  | _ => exact .inl ⟨rfl, rfl⟩

theorem Effect.mem_writer (h : Effect s ins t) :
    t.mem = s.mem ∨ (∃ x, ins = .ldB x) ∨ ∃ x, ins = .storeRegs x := by
  cases h with
  | memory hi _ => exact .inr hi
  | skip c => exact .inl (s.skipIf_mem c)
  | _ => exact .inl rfl

theorem Effect.fb_writer (h : Effect s ins t) : t.fb = s.fb ∨ ins = .cls ∨ ∃ x y n, ins = .drw x y n := by
  cases h with
  | clear => exact .inr (.inl rfl)
  | draw x y n _ => exact .inr (.inr ⟨x, y, n, rfl⟩)
  | skip c => exact .inl (s.skipIf_fb c)
  | _ => exact .inl rfl

theorem Effect.dt_writer (h : Effect s ins t) : t.dt = s.dt ∨ ∃ x, ins = .ldDtVx x := by
  cases h with
  | delay x => exact .inr ⟨x, rfl⟩
  | skip c => exact .inl (s.skipIf_dt c)
  | _ => exact .inl rfl

theorem Effect.st_writer (h : Effect s ins t) : t.st = s.st ∨ ∃ x, ins = .ldStVx x := by
  cases h with
  | sound x => exact .inr ⟨x, rfl⟩
  | skip c => exact .inl (s.skipIf_st c)
  | _ => exact .inl rfl

theorem Effect.register_writer (h : Effect s ins t) (r : Reg) :
    t.getV r = s.getV r ∨ destination r ins = true ∨ (r = 15 ∧ flagWriter ins = true) := by
  cases h with
  | @register _ x b hx =>
    by_cases hr : r = x
    · exact .inr (.inl (hr ▸ hx))
    · exact .inl (s.getV_setV_ne b hr)
  | @flagged _ x flag result hx hf =>
    rw [State.getV_setFlagThen]
    by_cases hr : r = x
    · exact .inr (.inl (hr ▸ hx))
    · by_cases hr15 : r = flagReg
      · exact .inr (.inr ⟨hr15, hf⟩)
      · exact .inl (by rw [if_neg hr, if_neg hr15])
  | random x kk b =>
    by_cases hr : r = x
    · exact .inr (.inl (beq_iff_eq.mpr hr.symm))
    · exact .inl (s.consumeRandom.getV_setV_ne b hr)
  | @registerBlock x bytes hlen =>
    by_cases hr : r ≤ x
    · exact .inr (.inl (decide_eq_true hr))
    · have hout : bytes.length ≤ r.val := by
        have hlt : x.val < r.val := Fin.lt_def.mp (not_le.mp hr)
        omega
      exact .inl (by rw [State.getV_loadBlock, List.getD_eq_default _ _ hout])
  | draw x y n bytes =>
    by_cases hr : r = flagReg
    · exact .inr (.inr ⟨hr, rfl⟩)
    · exact .inl (State.getV_setV_ne _ _ hr)
  | skip c => exact .inl (s.skipIf_getV c r)
  | _ => exact .inl rfl

end Writers

/-! ### Control in range (10_state.md R24, R26) -/

/-- No more entries of the same stack in use, and `pc` in range. -/
theorem ControlInRange.of_stack {s t : State} (hs : ControlInRange s) (hpc : t.pc.toNat ≤ 0x10FE)
    (hstack : t.stack = s.stack) (hsp : t.sp.val ≤ s.sp.val) : ControlInRange t := by
  refine ⟨hpc, fun k hk => ?_⟩
  rw [hstack]
  exact hs.2 k (by omega)

/-- Pushing a return address in range, then a jump in range. -/
theorem ControlInRange.pushed_setPc {s : State} {v target : Word} (hs : ControlInRange s) (h : s.sp.val < 16)
    (hv : v.toNat ≤ 0x1000) (ht : target.toNat ≤ 0x10FE) : ControlInRange ((s.pushed v h).setPc target) := by
  refine ⟨ht, fun k hk => ?_⟩
  have hk' : k.val < s.sp.val + 1 := hk
  rw [State.setPc_stack]
  by_cases htop : k.val = s.sp.val
  · rwa [s.pushed_stack_top v h htop]
  · rw [s.pushed_stack_below v h htop]
    exact hs.2 k (by omega)

/-- An instruction fetched inside memory enters with `pc` at most 0x1000, and no effect leads out of the range. -/
theorem Effect.keeps_controlInRange {s t : State} {ins : Instr} (h : Effect s ins t) (hpc : s.pc.toNat ≤ 0x1000)
    (hs : ControlInRange s) : ControlInRange t := by
  cases h with
  | skip c =>
    refine hs.of_stack ?_ (s.skipIf_stack c) (by rw [State.skipIf_sp])
    rw [State.skipIf_pc_toNat]
    split <;> omega
  | jump ht => exact hs.of_stack ht rfl le_rfl
  | call nnn h =>
    have hn := nnn.isLt
    exact hs.pushed_setPc h hpc (by rw [addressOf_toNat]; omega)
  | @ret n h =>
    have htop := hs.2 n (by omega)
    exact hs.of_stack (htop.trans (by decide)) rfl (by rw [h]; exact Nat.le_succ n.val)
  | _ => exact hs

theorem State.cycle_keeps_controlInRange {s t : State} (hs : ControlInRange s) (h : s.cycle = .next t) :
    ControlInRange t := by
  have hadv {op : Word} (hf : s.fetch = .ok op) : s.advance.pc.toNat ≤ 0x1000 := by
    have hpc := State.pc_le_of_fetch hf
    have h2 : (2 : Word).toNat = 2 := rfl
    rw [State.advance_pc, BitVec.toNat_add, h2]
    omega
  have hs' {op : Word} (hf : s.fetch = .ok op) : ControlInRange s.advance :=
    hs.of_stack ((hadv hf).trans (by decide)) rfl le_rfl
  rcases s.cycle_cases with ⟨f, _, hc⟩ | ⟨op, ins, hf, _, hc⟩ | ⟨op, c, hf, _, hc⟩ <;> rw [hc] at h
  · cases h
    exact hs
  · exact (Effect.of_exec h).keeps_controlInRange (hadv hf) (hs' hf)
  · cases h
    exact hs' hf

theorem controlInRange_reset : ControlInRange State.reset :=
  ⟨by decide, fun k hk => absurd hk (Nat.not_lt_zero k.val)⟩

end Sys2Proof.Machine

namespace Sys2Proof.Proofs

open Sys2Proof.Machine

/-! ### The statements -/

/-- Settles O59: the two halves need each other, since `00EE` takes `pc` from the stack and `2nnn` pushes it. -/
theorem stepKeepsControlInRange : Obligations.StepKeepsControlInRange := by
  intro s t hs h
  refine step_keeps (P := ControlInRange) (fun _ _ hs => hs) (fun _ _ hs _ => State.cycle_keeps_controlInRange hs)
    (fun _ _ => controlInRange_reset) ?load ?keyDown (fun _ _ hs _ => hs) (fun _ hs _ => hs) hs h
  case load =>
    intro s bytes hs _
    rcases s.loadProgram_cases bytes with ⟨_, m, hm, _, _⟩ | ⟨_, hf⟩
    · rw [hm]
      exact hs.of_stack (show 512 ≤ 0x10FE by decide) rfl le_rfl
    · rw [hf]
      exact hs
  case keyDown =>
    intro s k hs _
    rcases s.keyDown_cases k with ⟨_, _, hk⟩ | ⟨_, hk⟩ <;> rw [hk] <;> exact hs

/-- Settles O8: the fetch reports the first bad address, and the cycle raises it in the state it began with. -/
theorem fetchOutsideMemoryHalts : Obligations.FetchOutsideMemoryHalts := by
  intro s rest hr hpc
  refine ⟨fun hi => ?_, fun hi => ?_⟩
  · rw [step_of_running hi hr, State.cycle_of_fetch_outside hpc]
    rfl
  · rw [step_of_step hi hr, State.cycle_of_fetch_outside (s := s.setInbox rest) hpc]
    rfl

/-- Settles O28: the second push writes above the first, so the first entry is still there when it becomes the top. -/
theorem pushPopRoundTrip : Obligations.PushPopRoundTrip := by
  refine ⟨fun s a b h => ?pushes, fun s nnn mmm b h => ?calls, fun s a h => State.push_of_full a h⟩
  all_goals
    have hlt : s.sp.val < 16 := by omega
    have hlt' : s.sp.val + 1 < 16 := by omega
    have hne : s.sp.val ≠ s.sp.val + 1 := by omega
  case pushes =>
    exact ⟨_, _, _, _, State.push_of_lt a hlt, State.push_of_lt b hlt',
      State.pop_of_top (n := ⟨s.sp.val + 1, hlt'⟩) rfl (State.pushed_stack_top _ b hlt' rfl),
      State.pop_of_top (n := ⟨s.sp.val, hlt⟩) rfl
        ((State.pushed_stack_below _ b hlt' hne).trans (s.pushed_stack_top a hlt rfl)), rfl⟩
  case calls =>
    exact ⟨_, _, _, _, exec_call_of_lt nnn hlt, exec_call_of_lt mmm hlt',
      exec_ret_of_top (n := ⟨s.sp.val + 1, hlt'⟩) rfl (State.pushed_stack_top _ b hlt' rfl), rfl,
      exec_ret_of_top (n := ⟨s.sp.val, hlt⟩) rfl
        ((State.pushed_stack_below _ b hlt' hne).trans (s.pushed_stack_top s.pc hlt rfl)), rfl, rfl⟩

/-- Settles O53: each effect leaves the keys and the inbox as they are, and one alone consumes a random byte. -/
theorem instructionsNeverWriteInputs : Obligations.InstructionsNeverWriteInputs := by
  intro ins s t h
  have he := Effect.of_exec h
  refine ⟨he.keys_eq, he.inbox_eq, fun hne => he.random_source.resolve_right ?_⟩
  rintro ⟨x, kk, hrnd⟩
  exact hne x kk hrnd

/-- Settles O54, part by part, from the writers of each part. -/
theorem eachPartHasItsWriters : Obligations.EachPartHasItsWriters := by
  intro ins s t h
  have he := Effect.of_exec h
  refine ⟨he.i_writer.resolve_left, fun hne => he.stack_writer.resolve_left ?_, he.mem_writer.resolve_left,
    he.fb_writer.resolve_left, he.dt_writer.resolve_left, he.st_writer.resolve_left⟩
  rintro ⟨hstack, hsp⟩
  exact hne.elim (· hstack) (· hsp)

/-- Settles O55: of the effects that write registers, each writes a destination or, under a flag writer, `VF`. -/
theorem registersChangeOnlyAsDestinations : Obligations.RegistersChangeOnlyAsDestinations :=
  fun _ _ _ r h hne => ((Effect.of_exec h).register_writer r).resolve_left hne

/-- Settles O6: a free-running or a requested step is one instruction cycle, and the fetch is inside memory. -/
theorem stepRunsTheDecodedInstruction : Obligations.StepRunsTheDecodedInstruction := by
  intro s ins rest hr hpc hd
  refine ⟨fun hi => ?_, fun hi => ?_⟩
  · rw [step_of_running hi hr, State.cycle_of_decode hpc hd]
    rfl
  · rw [step_of_step hi hr, State.cycle_of_decode (s := s.setInbox rest) hpc hd]
    rfl

/-- Settles O13: memory after reset lists nothing, so every byte reads as the glyph table or, beyond it, as zero. -/
theorem resetLeavesTheTabledValues : Obligations.ResetLeavesTheTabledValues := by
  have hlen : Config.glyphTable.length = 80 := rfl
  refine ⟨fun r => ?v, rfl, rfl, rfl, rfl, fun _ _ => rfl, hlen, fun a ha => ?beyond, rfl, fun k => ?stack, fun k => ?keys,
    Screen.pixel_clear, rfl⟩
  case v => simp [State.getV, State.reset]
  case beyond => exact List.getD_eq_default _ _ (hlen.trans_le ha)
  case stack => simp [State.reset]
  case keys => simp [State.reset]

/-- Settles O57: memory lists nothing, `pc` is 0 with no entry in use, and the block is running. -/
theorem invariantsHoldAtReset : Obligations.InvariantsHoldAtReset :=
  ⟨Memory.wf_reset, controlInRange_reset, trivial⟩

end Sys2Proof.Proofs

/-! Memory (20_memory.md): the canonical form through an instruction and through a cycle, the frame of one write, and what
an accepted load is delivered as. -/

namespace Sys2Proof.Machine

/-! ### The canonical form (20_memory.md R50, R53) -/

/-- The two instructions that write memory write it byte by byte, in range; no other effect touches it. -/
theorem Effect.keeps_memCanonical {s t : State} {ins : Instr} (h : Effect s ins t) (hs : MemCanonical s) :
    MemCanonical t := by
  cases h with
  | memory _ hwf => exact hwf hs
  | skip c => rwa [MemCanonical, State.skipIf_mem]
  | _ => exact hs

theorem State.cycle_keeps_memCanonical {s t : State} (hs : MemCanonical s) (h : s.cycle = .next t) :
    MemCanonical t := by
  rcases s.cycle_cases with ⟨f, _, hc⟩ | ⟨op, ins, _, _, hc⟩ | ⟨op, c, _, _, hc⟩ <;> rw [hc] at h
  · cases h
    exact hs
  · have hadv : MemCanonical s.advance := hs
    exact (Effect.of_exec h).keeps_memCanonical hadv
  · cases h
    exact hs

theorem State.loadProgram_keeps_memCanonical {s : State} (bytes : List Byte) (hs : MemCanonical s) :
    MemCanonical (s.loadProgram bytes) := by
  rcases s.loadProgram_cases bytes with ⟨_, m, hm, hwf, _⟩ | ⟨_, hf⟩
  · rw [hm]
    exact hwf hs
  · rw [hf]
    exact hs

theorem State.keyDown_keeps_memCanonical {s : State} (k : Fin 16) (hs : MemCanonical s) :
    MemCanonical (s.keyDown k) := by
  rcases s.keyDown_cases k with ⟨_, _, hk⟩ | ⟨_, hk⟩ <;> rw [hk] <;> exact hs

/-! ### One write, and a load -/

/-- A write of one byte leaves every part but that byte (20_memory.md R53). -/
theorem unchangedBut_setByte (s : State) (a : Nat) (v : Byte) :
    UnchangedBut (· = .mem a) s (s.setMem (s.mem.setByte a v)) := by
  have hrange : UnchangedBut (memRange a 1) s (s.setMem (s.mem.setByte a v)) := by
    refine unchangedBut_setMem fun b hb => ?_
    rw [Memory.byteAt_setByte, if_neg (by omega)]
  refine hrange.mono ?_
  rintro p ⟨k, hk, rfl⟩
  rw [Nat.lt_one_iff.mp hk, Nat.add_zero]

/-- A block in which no fault has been raised accepts a load (60_exceptions.md R228). -/
theorem Safe.accepts_loadProgram {s : State} (hs : Safe s) (bytes : List Byte) :
    s.accepts (.loadProgram bytes) = true := by
  unfold State.accepts
  cases hr : s.rs with
  | halted f => exact absurd hr (hs f)
  | running => rfl
  | awaitKey x => rfl

/-- Such a block with a load waiting first loads (20_memory.md R62). -/
theorem step_of_loadProgram {s : State} {bytes : List Byte} {rest : List Event}
    (hi : s.inbox = .loadProgram bytes :: rest) (hs : Safe s) :
    step s = .next ((s.setInbox rest).loadProgram bytes) := by
  have hs' : Safe (s.setInbox rest) := hs
  rw [step_of_inbox hi]
  simp only [State.serve, hs'.accepts_loadProgram, if_true]

end Sys2Proof.Machine

namespace Sys2Proof.Proofs

open Sys2Proof.Machine

/-- Settles O58: memory changes only by `Fx33`, `Fx55`, a load and `Reset`; the first three write inside memory, and reset
memory lists nothing. -/
theorem stepKeepsMemoryCanonical : Obligations.StepKeepsMemoryCanonical := fun _ _ hs h =>
  step_keeps (P := MemCanonical)
    (deliver := fun _ _ hs => hs)
    (cycle := fun _ _ hs _ => State.cycle_keeps_memCanonical hs)
    (reset := fun _ _ => Memory.wf_reset)
    (load := fun _ bytes hs _ => State.loadProgram_keeps_memCanonical bytes hs)
    (keyDown := fun _ k hs _ => State.keyDown_keeps_memCanonical k hs)
    (keyUp := fun _ _ hs _ => hs)
    (tick := fun _ hs _ => hs) hs h

/-- Settles O15: the image lands with `pc` at 0x200, or the fault is raised in the state the load was delivered to. -/
theorem loadProgramCopiesOrFaults : Obligations.LoadProgramCopiesOrFaults := by
  intro s bytes rest hi hs
  have hinbox := unchangedBut_setInbox s rest
  refine ⟨_, step_of_loadProgram hi hs, ?_⟩
  rcases (s.setInbox rest).loadProgram_cases bytes with ⟨hfit, m, hm, _, hat⟩ | ⟨hlarge, hf⟩
  · have hmem : UnchangedBut (memRange 512 bytes.length) (s.setInbox rest) ((s.setInbox rest).setMem m) :=
      unchangedBut_setMem fun b hb => by rw [hat, if_neg hb]
    rw [hm, if_pos hfit]
    refine ⟨rfl, rfl, fun k hk => ?image, ?frame⟩
    case image =>
      rw [State.setPc_mem, State.setMem_mem, hat, if_pos (by omega), Nat.add_sub_cancel_left]
    case frame =>
      exact ((hinbox.mono fun _ h => .inl h).trans (hmem.mono fun _ h => .inr (.inr h))).trans
        ((unchangedBut_setPc _ 512).mono fun _ h => .inr (.inl h))
  · obtain ⟨hrs, hframe⟩ := raisedFrom_raise (s.setInbox rest) (.loadTooLarge bytes.length)
    rw [hf, if_neg (by omega)]
    exact ⟨rfl, hrs, (hinbox.mono fun _ h => .inl h).trans (hframe.mono fun _ h => .inr h)⟩

/-- Settles O42: the bounds check decides both accesses, and the byte written is the only one that reads differently. -/
theorem readAfterWrite : Obligations.ReadAfterWrite := by
  intro s a v
  refine ⟨fun ha => ?inside, fun ha => ?outside⟩
  case inside =>
    refine ⟨s.setMem (s.mem.setByte a v), ?_, ?_, ?_, unchangedBut_setByte s a v⟩
    · rw [State.memWrite_eq, if_pos ha]
    · rw [State.memRead_eq, if_pos ha, State.setMem_mem, Memory.byteAt_setByte, if_pos rfl]
    · rw [State.memRead_eq, if_pos ha]
  case outside =>
    have hout : ¬ a < 4096 := Nat.not_lt.mpr ha
    rw [State.memWrite_eq, State.memRead_eq, if_neg hout, if_neg hout]
    exact ⟨rfl, rfl⟩

end Sys2Proof.Proofs

/-! Encoding (30_encoding.md): the fields of a word as numbers, each format put together again from the fields, what `decode`
answers said once (`Explains`), and the row of the opcode map a word fits. -/

namespace Sys2Proof

/-! ### The fields of a word (30_encoding.md R81) -/

theorem fieldH_eq (op : Word) : fieldH op = op.toNat / 0x1000 := by
  simp only [fieldH, BitVec.extractLsb'_toNat, Nat.shiftRight_eq_div_pow]
  omega

theorem fieldX_val (op : Word) : (fieldX op).val = op.toNat / 256 % 16 := by
  simp only [fieldX, BitVec.val_toFin, BitVec.extractLsb'_toNat, Nat.shiftRight_eq_div_pow, Nat.reducePow]

theorem fieldY_val (op : Word) : (fieldY op).val = op.toNat / 16 % 16 := by
  simp only [fieldY, BitVec.val_toFin, BitVec.extractLsb'_toNat, Nat.shiftRight_eq_div_pow, Nat.reducePow]

theorem fieldN_val (op : Word) : (fieldN op).val = op.toNat % 16 := by
  simp only [fieldN, BitVec.val_toFin, BitVec.extractLsb'_toNat, Nat.shiftRight_zero, Nat.reducePow]

theorem fieldKK_toNat (op : Word) : (fieldKK op).toNat = op.toNat % 256 := by
  simp only [fieldKK, BitVec.extractLsb'_toNat, Nat.shiftRight_zero, Nat.reducePow]

theorem fieldNNN_toNat (op : Word) : (fieldNNN op).toNat = op.toNat % 4096 := by
  simp only [fieldNNN, BitVec.extractLsb'_toNat, Nat.shiftRight_zero, Nat.reducePow]

/-! ### Each format put together again from the fields (30_encoding.md R82) -/

theorem formatNNN_of_fields {op : Word} {h : BitVec 4} (hh : fieldH op = h.toNat) : formatNNN h (fieldNNN op) = op := by
  apply BitVec.eq_of_toNat_eq
  rw [formatNNN_toNat, ← hh, fieldH_eq, fieldNNN_toNat]
  omega

theorem formatXKK_of_fields {op : Word} {h : BitVec 4} {kk : Byte} (hh : fieldH op = h.toNat)
    (hk : (fieldKK op).toNat = kk.toNat) : formatXKK h (fieldX op) kk = op := by
  apply BitVec.eq_of_toNat_eq
  rw [formatXKK_toNat, ← hh, ← hk, fieldH_eq, fieldX_val, fieldKK_toNat]
  omega

theorem formatXYN_of_fields {op : Word} {h : BitVec 4} {n : Fin 16} (hh : fieldH op = h.toNat)
    (hn : (fieldN op).val = n.val) : formatXYN h (fieldX op) (fieldY op) n = op := by
  apply BitVec.eq_of_toNat_eq
  rw [formatXYN_toNat, ← hh, ← hn, fieldH_eq, fieldX_val, fieldY_val, fieldN_val]
  omega

/-! ### The decoder by the high nibble (30_encoding.md R84) -/

theorem decode_of_family0 {op : Word} (h : fieldH op = 0x0) : decode op = decodeFamily0 op := by simp only [decode, h]

theorem decode_of_family5 {op : Word} (h : fieldH op = 0x5) :
    decode op = if fieldN op = 0 then .ok (.seReg (fieldX op) (fieldY op)) else .error .family5 := by
  simp only [decode, h]

theorem decode_of_family8 {op : Word} (h : fieldH op = 0x8) : decode op = decodeFamily8 op := by simp only [decode, h]

theorem decode_of_family9 {op : Word} (h : fieldH op = 0x9) :
    decode op = if fieldN op = 0 then .ok (.sneReg (fieldX op) (fieldY op)) else .error .family9 := by
  simp only [decode, h]

theorem decode_of_familyE {op : Word} (h : fieldH op = 0xE) : decode op = decodeFamilyE op := by simp only [decode, h]

theorem decode_of_familyF {op : Word} (h : fieldH op = 0xF) : decode op = decodeFamilyF op := by simp only [decode, h]

/-- Every instruction is read back from its word: each format's fields are the operands it was put together from. -/
theorem decode_encode (i : Instr) : decode (encode i) = .ok i := by
  cases i with
  | cls | ret => rfl
  | jp | call | ldI | jpV0 => simp [encode, decode]
  | seImm | sneImm | ldImm | addImm | rnd => simp [encode, decode]
  | seReg | sneReg | drw => simp [encode, decode]
  | ldReg | orReg | andReg | xorReg | addReg | subReg | shr | subnReg | shl => simp [encode, decode, decodeFamily8]
  | skp | sknp => simp [encode, decode, decodeFamilyE]
  | ldVxDt | ldVxK | ldDtVx | ldStVx | addI | ldF | ldB | storeRegs | loadRegs =>
    simp [encode, decode, decodeFamilyF]

/-- The same from the two big-endian bytes, whatever bytes follow (30_encoding.md R80). -/
theorem decodeBytes_encodeBytes (i : Instr) (rest : List Byte) :
    decodeBytes (encodeBytes i ++ rest) = .ok (i, rest) := by
  simp only [encodeBytes, List.cons_append, List.nil_append, decodeBytes, wordOfBytes_highByte_lowByte, decode_encode,
    Except.map]

/-! ### What `decode` answers -/

/-- The classes of `UNKNOWN` words, by the number of the word (30_encoding.md R87). -/
def UnknownWord (n : Nat) : Undecoded → Prop
  | .tooShort => False
  | .family0 => n < 0x1000 ∧ n ≠ 0x00E0 ∧ n ≠ 0x00EE
  | .family5 => n / 0x1000 = 5 ∧ n % 16 ≠ 0
  | .family8 => n / 0x1000 = 8 ∧ n % 16 ∈ [8, 9, 0xA, 0xB, 0xC, 0xD, 0xF]
  | .family9 => n / 0x1000 = 9 ∧ n % 16 ≠ 0
  | .familyE => n / 0x1000 = 0xE ∧ n % 256 ∉ [0x9E, 0xA1]
  | .familyF => n / 0x1000 = 0xF ∧ n % 256 ∉ [0x07, 0x0A, 0x15, 0x18, 0x1E, 0x29, 0x33, 0x55, 0x65]

/-- An answer of the decoder that is right about `op`: an instruction that `op` encodes, or the class that `op` is in. -/
def Explains (op : Word) : Except Undecoded Instr → Prop
  | .ok i => encode i = op
  | .error c => UnknownWord op.toNat c

theorem explains_family0 {op : Word} (h : fieldH op = 0x0) : Explains op (decodeFamily0 op) := by
  rw [fieldH_eq] at h
  unfold decodeFamily0
  split
  next hop => exact hop.symm
  next hcls =>
    split
    next hop => exact hop.symm
    next hret =>
      refine ⟨by omega, fun hn => hcls ?_, fun hn => hret ?_⟩ <;> exact BitVec.eq_of_toNat_eq hn

theorem explains_family8 {op : Word} (h : fieldH op = 0x8) : Explains op (decodeFamily8 op) := by
  unfold decodeFamily8
  split
  case h_10 =>
    simp only [fieldH_eq, fieldN_val, imp_false] at *
    refine ⟨h, ?_⟩
    simp only [List.mem_cons, List.not_mem_nil, or_false]
    omega
  all_goals exact formatXYN_of_fields h ‹_›

theorem explains_familyE {op : Word} (h : fieldH op = 0xE) : Explains op (decodeFamilyE op) := by
  unfold decodeFamilyE
  split
  case h_3 =>
    simp only [fieldH_eq, fieldKK_toNat, imp_false] at *
    refine ⟨h, ?_⟩
    simp only [List.mem_cons, List.not_mem_nil, or_false]
    omega
  all_goals exact formatXKK_of_fields h ‹_›

theorem explains_familyF {op : Word} (h : fieldH op = 0xF) : Explains op (decodeFamilyF op) := by
  unfold decodeFamilyF
  split
  case h_10 =>
    simp only [fieldH_eq, fieldKK_toNat, imp_false] at *
    refine ⟨h, ?_⟩
    simp only [List.mem_cons, List.not_mem_nil, or_false]
    omega
  all_goals exact formatXKK_of_fields h ‹_›

/-- Families `0x5` and `0x9`: the last nibble has to be 0. -/
theorem explains_zeroNibble {op : Word} {h : BitVec 4} {i : Instr} {c : Undecoded} (hh : fieldH op = h.toNat)
    (hi : encode i = formatXYN h (fieldX op) (fieldY op) 0)
    (hc : op.toNat / 0x1000 = h.toNat ∧ op.toNat % 16 ≠ 0 → UnknownWord op.toNat c) :
    Explains op (if fieldN op = 0 then .ok i else .error c) := by
  split
  next hn => exact hi.trans (formatXYN_of_fields hh (congrArg Fin.val hn))
  next hn =>
    refine hc ⟨(fieldH_eq op).symm.trans hh, fun hz => hn (Fin.ext ?_)⟩
    rw [fieldN_val, hz]
    rfl

theorem explains_decode (op : Word) : Explains op (decode op) := by
  unfold decode
  split
  case h_1 h => exact explains_family0 h
  case h_2 h | h_3 h | h_11 h | h_12 h => exact formatNNN_of_fields h
  case h_4 h | h_5 h | h_7 h | h_8 h | h_13 h => exact formatXKK_of_fields h rfl
  case h_6 h => exact explains_zeroNibble (h := 0x5) h rfl id
  case h_9 h => exact explains_family8 h
  case h_10 h => exact explains_zeroNibble (h := 0x9) h rfl id
  case h_14 h => exact formatXYN_of_fields h rfl
  case h_15 h => exact explains_familyE h
  case h_16 =>
    have hop := op.isLt
    refine explains_familyF ?_
    simp only [fieldH_eq, imp_false] at *
    omega

/-- What a word decodes to is encoded as that word. -/
theorem encode_of_decode {op : Word} {i : Instr} (h : decode op = .ok i) : encode i = op := by
  have he := explains_decode op
  rwa [h] at he

theorem unknownWord_of_decode {op : Word} {c : Undecoded} (h : decode op = .error c) : UnknownWord op.toNat c := by
  have he := explains_decode op
  rwa [h] at he

/-- A word of a class is refused with that class: none of the tests of its family succeeds. -/
theorem decode_of_unknownWord {op : Word} {c : Undecoded} (h : UnknownWord op.toNat c) : decode op = .error c := by
  cases c with
  | tooShort => exact h.elim
  | family0 =>
    obtain ⟨hlt, hcls, hret⟩ := h
    have hne (w : Word) (hw : op.toNat ≠ w.toNat) : op ≠ w := fun he => hw (congrArg _ he)
    rw [decode_of_family0 (by rw [fieldH_eq]; omega), decodeFamily0, if_neg (hne 0x00E0 hcls),
      if_neg (hne 0x00EE hret)]
  | family5 =>
    obtain ⟨hh, hn⟩ := h
    rw [← fieldN_val] at hn
    rw [decode_of_family5 (by rw [fieldH_eq, hh]), if_neg fun hz => hn (congrArg Fin.val hz)]
  | family9 =>
    obtain ⟨hh, hn⟩ := h
    rw [← fieldN_val] at hn
    rw [decode_of_family9 (by rw [fieldH_eq, hh]), if_neg fun hz => hn (congrArg Fin.val hz)]
  | family8 =>
    obtain ⟨hh, hn⟩ := h
    rw [← fieldN_val] at hn
    rw [decode_of_family8 (by rw [fieldH_eq, hh]), decodeFamily8]
    split
    case h_10 => rfl
    all_goals exact absurd (‹_ = _› ▸ hn) (by decide)
  | familyE =>
    obtain ⟨hh, hk⟩ := h
    rw [← fieldKK_toNat] at hk
    rw [decode_of_familyE (by rw [fieldH_eq, hh]), decodeFamilyE]
    split
    case h_3 => rfl
    all_goals exact absurd (by decide) (‹_ = _› ▸ hk)
  | familyF =>
    obtain ⟨hh, hk⟩ := h
    rw [← fieldKK_toNat] at hk
    rw [decode_of_familyF (by rw [fieldH_eq, hh]), decodeFamilyF]
    split
    case h_10 => rfl
    all_goals exact absurd (by decide) (‹_ = _› ▸ hk)

theorem decode_eq_error_iff (op : Word) (c : Undecoded) : decode op = .error c ↔ UnknownWord op.toNat c :=
  ⟨unknownWord_of_decode, decode_of_unknownWord⟩

/-! ### The opcode map (30_encoding.md R84, R85) -/

theorem row_mem_opcodeMap (i : Instr) : i.row ∈ opcodeMap := by
  cases i <;> simp [opcodeMap, Instr.row]

theorem exists_row_eq_of_mem {r : Row} (h : r ∈ opcodeMap) : ∃ i : Instr, i.row = r := by
  simp only [opcodeMap, ← List.map_append, List.mem_map] at h
  obtain ⟨i, _, hi⟩ := h
  exact ⟨i, hi⟩

section FixedBits

variable {name : String} {value mask op : Word}

/-- Where a row fixes bits, a word that fits it has the bits of the row's value. -/
theorem extractLsb'_of_fits (hfit : Row.fits ⟨name, value, mask⟩ op = true) (start : Nat) {len : Nat}
    (hm : mask.extractLsb' start len = BitVec.allOnes len) :
    op.extractLsb' start len = value.extractLsb' start len := by
  have hv : op &&& mask = value := beq_iff_eq.mp hfit
  rw [← hv, BitVec.extractLsb'_and, hm, BitVec.and_allOnes]

theorem eq_value_of_fits (hfit : Row.fits ⟨name, value, 0xFFFF⟩ op = true) : op = value := by
  simpa only [BitVec.extractLsb'_eq_self] using extractLsb'_of_fits hfit 0 (len := 16) rfl

theorem fieldH_of_fits (hfit : Row.fits ⟨name, value, mask⟩ op = true) (hm : mask.extractLsb' 12 4 = 0xF) :
    fieldH op = fieldH value :=
  congrArg BitVec.toNat (extractLsb'_of_fits hfit 12 hm)

theorem fieldN_of_fits (hfit : Row.fits ⟨name, value, mask⟩ op = true) (hm : mask.extractLsb' 0 4 = 0xF) :
    fieldN op = fieldN value :=
  congrArg BitVec.toFin (extractLsb'_of_fits hfit 0 hm)

theorem fieldKK_of_fits (hfit : Row.fits ⟨name, value, mask⟩ op = true) (hm : mask.extractLsb' 0 8 = 0xFF) :
    fieldKK op = fieldKK value :=
  extractLsb'_of_fits hfit 0 hm

end FixedBits

/-- A word that fits an instruction's row decodes to an instruction of that row: the bits that the row fixes are those the
decoder branches on. -/
theorem decode_map_row_of_fits {i : Instr} {op : Word} (hfit : i.row.fits op = true) :
    (decode op).map Instr.row = .ok i.row := by
  cases i with
  | cls | ret =>
    rw [eq_value_of_fits hfit]
    rfl
  | jp | call | ldI | jpV0 | seImm | sneImm | ldImm | addImm | rnd | drw =>
    rw [decode, fieldH_of_fits hfit rfl]
    rfl
  | seReg | sneReg =>
    rw [decode, fieldH_of_fits hfit rfl, fieldN_of_fits hfit rfl]
    rfl
  | ldReg | orReg | andReg | xorReg | addReg | subReg | shr | subnReg | shl =>
    rw [decode_of_family8 (fieldH_of_fits hfit rfl), decodeFamily8, fieldN_of_fits hfit rfl]
    rfl
  | skp | sknp =>
    rw [decode_of_familyE (fieldH_of_fits hfit rfl), decodeFamilyE, fieldKK_of_fits hfit rfl]
    rfl
  | ldVxDt | ldVxK | ldDtVx | ldStVx | addI | ldF | ldB | storeRegs | loadRegs =>
    rw [decode_of_familyF (fieldH_of_fits hfit rfl), decodeFamilyF, fieldKK_of_fits hfit rfl]
    rfl

theorem encode_fits_row (i : Instr) : i.row.fits (encode i) = true := by
  cases i with
  | cls => exact Laws.EncodingFits.cls
  | ret => exact Laws.EncodingFits.ret
  | jp | call | ldI | jpV0 => exact Laws.fits_formatNNN _ _ _
  | seImm | sneImm | ldImm | addImm | rnd => exact Laws.fits_formatXKK _ _ _ _
  | seReg | ldReg | orReg | andReg | xorReg | addReg | subReg | shr | subnReg | shl | sneReg =>
    exact Laws.fits_formatXYS _ _ _ _ _
  | drw => exact Laws.fits_formatXYN _ _ _ _ _
  | skp | sknp | ldVxDt | ldVxK | ldDtVx | ldStVx | addI | ldF | ldB | storeRegs | loadRegs =>
    exact Laws.fits_formatXSS _ _ _ _

theorem row_fits_of_decode {op : Word} {i : Instr} (h : decode op = .ok i) : i.row.fits op = true :=
  encode_of_decode h ▸ encode_fits_row i

theorem row_eq_of_fits {op : Word} {i : Instr} (h : decode op = .ok i) {r : Row} (hr : r ∈ opcodeMap)
    (hfit : r.fits op = true) : r = i.row := by
  obtain ⟨j, rfl⟩ := exists_row_eq_of_mem hr
  have hrow := decode_map_row_of_fits hfit
  rw [h] at hrow
  exact (Except.ok.inj hrow).symm

theorem wellFormedWord_of_decode_error {op : Word} {c : Undecoded} (h : decode op = .error c) :
    wellFormedWord op = false := by
  rw [wellFormedWord, List.any_eq_false]
  intro r hr hfit
  obtain ⟨j, rfl⟩ := exists_row_eq_of_mem hr
  have hrow := decode_map_row_of_fits hfit
  rw [h] at hrow
  cases hrow

end Sys2Proof

namespace Sys2Proof.Machine

/-- Two bytes in memory that are no instruction only advance `pc` (30_encoding.md R86). -/
theorem State.cycle_of_unknown {s : State} {c : Undecoded} (hpc : s.pc.toNat ≤ 0xFFE)
    (hd : decode (wordOfBytes (s.mem.byteAt s.pc.toNat) (s.mem.byteAt (s.pc.toNat + 1))) = .error c) :
    s.cycle = .next s.advance := by
  have hf := s.fetch_eq
  rw [if_pos (by omega)] at hf
  simp only [State.cycle, hf, hd]

end Sys2Proof.Machine

namespace Sys2Proof.Proofs

open Sys2Proof.Machine

/-- Settles O2: every field that a format writes is the field that the decoder reads, and the two bytes make the word. -/
theorem decodeInvertsEncode : Obligations.DecodeInvertsEncode :=
  ⟨decode_encode, decodeBytes_encodeBytes⟩

/-- Settles O3: in every branch the decoder has tested the fixed digits and read the others as operands. -/
theorem encodeInvertsDecode : Obligations.EncodeInvertsDecode := fun _ _ h => encode_of_decode h

/-- Settles O4: a word that fits a row decodes to an instruction of that row, so it fits no second one, and none if it does
not decode. -/
theorem decodeAgreesWithOpcodeMap : Obligations.DecodeAgreesWithOpcodeMap := fun _ =>
  ⟨fun i h => ⟨row_mem_opcodeMap i, row_fits_of_decode h, fun _ hr hfit => row_eq_of_fits h hr hfit⟩,
    fun _ h => wellFormedWord_of_decode_error h⟩

/-- Settles O5, class by class. -/
theorem unknownWordsByClass : Obligations.UnknownWordsByClass := fun op =>
  ⟨decode_eq_error_iff op .family0, decode_eq_error_iff op .family5, decode_eq_error_iff op .family8,
    decode_eq_error_iff op .family9, decode_eq_error_iff op .familyE, decode_eq_error_iff op .familyF,
    unknownWord_of_decode⟩

/-- Settles O1: each word is the encoding of its instruction. -/
theorem sampleWordsDecode : Obligations.SampleWordsDecode :=
  ⟨decode_encode .cls, decode_encode .ret, decode_encode (.jp 0xABC), decode_encode (.call 0xABC),
    decode_encode (.seImm 1 0x42), decode_encode (.sneReg 1 2), decode_encode (.ldImm 0xA 0xFF),
    decode_encode (.subReg 1 2), decode_encode (.shl 0xF 0xA), decode_encode (.ldI 0x300), decode_encode (.loadRegs 2),
    decode_encode (.ldB 1), decode_encode (.drw 1 2 5), decode_encode (.skp 1), decode_encode (.ldVxK 2)⟩

/-- Settles O7: a free-running or a requested step is one instruction cycle, and the fetched word is no instruction. -/
theorem stepPassesOverUnknownWord : Obligations.StepPassesOverUnknownWord := by
  intro s c rest hr hpc hd
  refine ⟨fun hi => ?_, fun hi => ?_⟩
  · rw [step_of_running hi hr, State.cycle_of_unknown hpc hd]
    rfl
  · rw [step_of_step hi hr, State.cycle_of_unknown (s := s.setInbox rest) hpc hd]
    rfl

end Sys2Proof.Proofs

/-! Control transfer (40_flow.md): the fetch that follows a jump or skip outside memory, the computed target and the skip
condition as numbers, and the two stack instructions on a full and on an empty stack. -/

namespace Sys2Proof.Machine

/-! ### The next fetch (10_state.md R25) -/

/-- From 0xFFF on, the fetch reports the first of its two addresses that lies outside memory (20_memory.md R54). -/
theorem State.fetch_of_outside {s : State} {addr : Nat} (hpc : 0xFFF ≤ s.pc.toNat)
    (haddr : max s.pc.toNat 0x1000 = addr) : s.fetch = .error (.memBounds addr) := by
  rw [State.fetch_eq, if_neg (by omega), haddr]

/-! ### Targets and skips -/

theorem State.getV16_toNat (s : State) (x : Reg) : (s.getV16 x).toNat = (s.getV x).toNat := by
  have hv := (s.getV x).isLt
  simp only [State.getV16, BitVec.truncate_eq_setWidth, BitVec.toNat_setWidth]
  omega

/-- The sum of a 12-bit address and a byte fits 16 bits, so it is exact (40_flow.md R118). -/
theorem computedTarget_toNat (s : State) (nnn : BitVec 12) :
    (addressOf nnn + s.getV16 0).toNat = nnn.toNat + (s.getV 0).toNat := by
  have hn := nnn.isLt
  have hv := (s.getV 0).isLt
  rw [BitVec.toNat_add, addressOf_toNat, State.getV16_toNat]
  omega

/-- `State.skipIf_pc_toNat` with the condition as the proposition that the test decides. -/
theorem State.skipIf_pc_toNat_of_iff (s : State) {c : Bool} {p : Prop} [Decidable p] (hc : c = true ↔ p) :
    (s.skipIf c).pc.toNat = if p then (s.pc.toNat + 2) % 65536 else s.pc.toNat := by
  simp only [State.skipIf_pc_toNat, hc]

/-! ### The call stack (10_state.md R29 to R31) -/

theorem unchangedBut_pushed (s : State) (v : Word) (h : s.sp.val < 16) {k : Fin 16} (hk : s.sp.val = k.val) :
    UnchangedBut (fun p => p = .sp ∨ p = .stackEntry k) s (s.pushed v h) := by
  intro p hp
  cases p with
  | sp => exact absurd (.inl rfl) hp
  | stackEntry j =>
    have hj : j ≠ k := fun he => hp (.inr (congrArg _ he))
    exact s.pushed_stack_below v h fun he => hj (Fin.ext (he.trans hk))
  | _ => rfl

theorem unchangedBut_setSp (s : State) (n : Fin 17) : UnchangedBut (· = .sp) s (s.setSp n) := by
  intro p hp
  cases p with
  | sp => exact absurd rfl hp
  | _ => rfl

theorem exec_call_of_full {s : State} (nnn : BitVec 12) (h : s.sp.val = 16) :
    exec (.call nnn) s = .next (s.raise (.stackOverflow s.pc)) := by
  simp only [exec, execCall, State.push_of_full _ h, Except.map, State.commit_error]

theorem exec_ret_of_empty {s : State} (h : s.sp.val = 0) : exec .ret s = .next (s.raise .stackUnderflow) := by
  simp only [exec, execRet, State.pop_of_empty h, Except.map, State.commit_error]

end Sys2Proof.Machine

namespace Sys2Proof.Proofs

open Sys2Proof.Machine

/-- Settles O21: the word and the target as numbers, and 0xFFF as the first `pc` from which no word can be fetched. -/
theorem jumpSetsPc : Obligations.JumpSetsPc := by
  intro nnn s
  refine ⟨formatNNN_toNat 0x1 nnn, s.setPc (addressOf nnn), rfl, addressOf_toNat nnn, unchangedBut_setPc s _, ?_⟩
  rintro rfl
  exact State.fetch_of_outside le_rfl rfl

/-- Settles O22: the sum is exact, and from 0xFFF on the next fetch reports the larger of it and 0x1000. -/
theorem computedJumpAddsV0 : Obligations.ComputedJumpAddsV0 := by
  intro nnn s
  refine ⟨formatNNN_toNat 0xB nnn, s.setPc (addressOf nnn + s.getV16 0), rfl, computedTarget_toNat s nnn,
    unchangedBut_setPc s _, fun hpc => State.fetch_of_outside hpc ?_⟩
  split <;> omega

/-- Settles O23: each test decides its condition, and a `pc` of 0x1000 or more is itself the address that the next fetch
reports. -/
theorem immediateSkips : Obligations.ImmediateSkips := by
  intro x kk s
  have hfetch (t : State) (hpc : 0x1000 ≤ t.pc.toNat) : t.fetch = .error (.memBounds t.pc.toNat) :=
    State.fetch_of_outside (by omega) (max_eq_left hpc)
  exact ⟨formatXKK_toNat 0x3 x kk, formatXKK_toNat 0x4 x kk,
    ⟨_, rfl, s.skipIf_pc_toNat_of_iff beq_iff_eq, unchangedBut_skipIf s _, hfetch _⟩,
    ⟨_, rfl, s.skipIf_pc_toNat_of_iff bne_iff_ne, unchangedBut_skipIf s _, hfetch _⟩⟩

/-- Settles O24: each test decides its condition on the two registers, which may be one. -/
theorem registerSkips : Obligations.RegisterSkips := fun _ _ s =>
  ⟨⟨_, rfl, s.skipIf_pc_toNat_of_iff beq_iff_eq, unchangedBut_skipIf s _⟩,
    ⟨_, rfl, s.skipIf_pc_toNat_of_iff bne_iff_ne, unchangedBut_skipIf s _⟩⟩

/-- Settles O25: a push onto entry `SP`, then a jump. -/
theorem callPushesAndJumps : Obligations.CallPushesAndJumps := by
  intro nnn s k hk
  have hlt : s.sp.val < 16 := hk.trans_lt k.isLt
  have hsp : (s.pushed s.pc hlt).sp.val = k.val + 1 := congrArg (· + 1) hk
  have hpush := unchangedBut_pushed s s.pc hlt hk
  have hjump := unchangedBut_setPc (s.pushed s.pc hlt) (addressOf nnn)
  exact ⟨_, exec_call_of_lt nnn hlt, s.pushed_stack_top s.pc hlt hk.symm, hsp, addressOf_toNat nnn,
    (hpush.mono fun _ h => .inr h).trans (hjump.mono fun _ h => .inl h)⟩

/-- Settles O26: a pop of entry `SP - 1`, which lowers `SP` only, then a jump to it. -/
theorem returnPopsIntoPc : Obligations.ReturnPopsIntoPc := by
  intro s k hk
  have hpop := unchangedBut_setSp s k.castSucc
  have hjump := unchangedBut_setPc (s.setSp k.castSucc) s.stack[k]
  exact ⟨_, exec_ret_of_top hk rfl, rfl, rfl,
    (hpop.mono fun _ h => .inr h).trans (hjump.mono fun _ h => .inl h)⟩

/-- Settles O27: the push and the pop fail, and the commit raises their fault in the entering state. -/
theorem stackFaultsArePrecise : Obligations.StackFaultsArePrecise := fun nnn s =>
  ⟨fun hfull => ⟨_, exec_call_of_full nnn hfull, raisedFrom_raise s _, rfl, rfl⟩,
    fun hempty => ⟨_, exec_ret_of_empty hempty, raisedFrom_raise s _, rfl, rfl⟩⟩

end Sys2Proof.Proofs

/-! Registers, arithmetic, logic, random (41_alu.md): the flag values as numbers, what a flag-writing instruction leaves in the
registers said once, and the frame of the random source. -/

namespace Sys2Proof.Machine

/-! ### Words and results as numbers -/

/-- The words of family `0x8`, the sub-opcode `n` in the low nibble (30_encoding.md R84). -/
theorem family8_toNat (x y n : Fin 16) :
    (formatXYN 0x8 x y n).toNat = 0x8000 + n.val + x.val * 256 + y.val * 16 := by
  have h8 : (0x8 : BitVec 4).toNat = 8 := rfl
  rw [formatXYN_toNat, h8]
  omega

theorem byteSub_toNat (a b : Byte) : (a - b).toNat = (a.toNat + 256 - b.toNat) % 256 := by
  have hb := b.isLt
  rw [BitVec.toNat_sub', ← Nat.add_sub_assoc hb.le]

theorem shiftRight_one_toNat (a : Byte) : (a >>> 1).toNat = a.toNat / 2 := by
  rw [BitVec.toNat_ushiftRight, Nat.shiftRight_one]

theorem shiftLeft_one_toNat (a : Byte) : (a <<< 1).toNat = a.toNat * 2 % 256 := by
  rw [BitVec.toNat_shiftLeft, Nat.shiftLeft_eq, Nat.pow_one]

/-! ### Flag values as numbers (41_alu.md R136) -/

theorem flagOf_toNat (p : Prop) [Decidable p] : (flagOf (decide p)).toNat = if p then 1 else 0 := by
  by_cases hp : p <;> simp [flagOf, hp]

theorem carryFlag_toNat (a b : Byte) : (carryFlag a b).toNat = if a.toNat + b.toNat > 255 then 1 else 0 :=
  flagOf_toNat _

theorem noBorrowFlag_toNat (a b : Byte) : (noBorrowFlag a b).toNat = if a.toNat > b.toNat then 1 else 0 :=
  flagOf_toNat _

theorem lowBitFlag_toNat (a : Byte) : (lowBitFlag a).toNat = a.toNat % 2 :=
  (BitVec.toNat_and a 1).trans (Nat.and_one_is_mod _)

/-- The mask 0x80 selects the most significant bit. -/
theorem and_0x80_ne_zero_iff (a : Byte) : a &&& 0x80 ≠ 0 ↔ 128 ≤ a.toNat := by
  have hbit : a.getLsbD 7 = decide (128 ≤ a.toNat) := a.msb_eq_getLsbD_last.symm.trans a.msb_eq_decide
  have hmask : a &&& 0x80 = if a.getLsbD 7 = true then 0x80 else 0 := BitVec.and_twoPow a 7
  rw [hmask, hbit]
  by_cases h : 128 ≤ a.toNat <;> simp [h]

theorem highBitFlag_toNat (a : Byte) : (highBitFlag a).toNat = a.toNat / 128 := by
  have ha := a.isLt
  have hflag : (highBitFlag a).toNat = if 128 ≤ a.toNat then 1 else 0 :=
    (flagOf_toNat _).trans (if_congr (and_0x80_ne_zero_iff a) rfl rfl)
  rw [hflag]
  split <;> omega

/-! ### The flag, then the result (41_alu.md R137) -/

/-- What the flag-writing instructions do to the registers, with the result and the flag as numbers. -/
theorem State.setFlagThen_spec (s : State) (x : Reg) {flag result : Byte} {r f : Nat} (hr : result.toNat = r)
    (hf : flag.toNat = f) :
    ((s.setFlagThen flag x result).getV x).toNat = r ∧
      (x ≠ 15 → ((s.setFlagThen flag x result).getV 15).toNat = f) ∧
      UnchangedBut (fun p => p = .v x ∨ p = .v 15) s (s.setFlagThen flag x result) := by
  refine ⟨?result, fun hx => ?flag, unchangedBut_setFlagThen s flag x result⟩
  case result => rw [State.getV_setFlagThen, if_pos rfl, hr]
  case flag => rw [State.getV_setFlagThen_flag s flag result hx, hf]

/-! ### The random source (10_state.md R35) -/

theorem State.randomByte_of_tape_nil {s : State} (h : s.tape = []) : s.randomByte = Config.randomByte s.draws := by
  simp only [State.randomByte, h]

theorem State.randomByte_of_tape_cons {s : State} {b : Byte} {rest : List Byte} (h : s.tape = b :: rest) :
    s.randomByte = b := by
  simp only [State.randomByte, h]

theorem unchangedBut_consumeRandom (s : State) :
    UnchangedBut (fun p => p = .tape ∨ p = .draws) s s.consumeRandom := by
  intro p hp
  cases p with
  | tape => exact absurd (.inl rfl) hp
  | draws => exact absurd (.inr rfl) hp
  | _ => rfl

end Sys2Proof.Machine

namespace Sys2Proof.Proofs

open Sys2Proof.Machine

/-- Settles O31: each is one write of `V[x]`, its bits those of the operands combined. -/
theorem copyAndLogicWriteNoFlag : Obligations.CopyAndLogicWriteNoFlag := by
  intro x y s
  have hword := family8_toNat x y
  refine ⟨⟨hword 0x0, hword 0x1, hword 0x2, hword 0x3⟩,
    ⟨_, rfl, s.getV_setV_same x _, unchangedBut_setV s x _⟩,
    ⟨_, rfl, fun k => ?or, unchangedBut_setV s x _⟩,
    ⟨_, rfl, fun k => ?and, unchangedBut_setV s x _⟩,
    ⟨_, rfl, fun k => ?xor, unchangedBut_setV s x _⟩⟩
  case or => rw [State.getV_setV_same, BitVec.getLsbD_or]
  case and => rw [State.getV_setV_same, BitVec.getLsbD_and]
  case xor => rw [State.getV_setV_same, BitVec.getLsbD_xor, Bool.bne_eq_xor]

/-- Settles O32: the sum wraps at 256, and the carry is of the exact sum. -/
theorem addRegistersSetsCarry : Obligations.AddRegistersSetsCarry := fun x _ s =>
  ⟨_, rfl, s.setFlagThen_spec x (BitVec.toNat_add _ _) (carryFlag_toNat _ _)⟩

/-- Settles O33: the two subtractions are one with the operands exchanged. -/
theorem subtractSetsNoBorrow : Obligations.SubtractSetsNoBorrow := fun x _ s =>
  ⟨⟨_, rfl, s.setFlagThen_spec x (byteSub_toNat _ _) (noBorrowFlag_toNat _ _)⟩,
    ⟨_, rfl, s.setFlagThen_spec x (byteSub_toNat _ _) (noBorrowFlag_toNat _ _)⟩⟩

/-- Settles O34: the quotient and the remainder by 2, the double modulo 256 and the quotient by 128. -/
theorem shiftsReportTheBitShiftedOut : Obligations.ShiftsReportTheBitShiftedOut := fun x _ s =>
  ⟨⟨_, rfl, s.setFlagThen_spec x (shiftRight_one_toNat _) (lowBitFlag_toNat _)⟩,
    ⟨_, rfl, s.setFlagThen_spec x (shiftLeft_one_toNat _) (highBitFlag_toNat _)⟩⟩

/-- Settles O35: the byte is drawn from the entering state, masked and written over the state with one byte consumed. -/
theorem randomIsMasked : Obligations.RandomIsMasked := by
  intro x kk s
  have hv : (s.consumeRandom.setV x (s.randomByte &&& kk)).getV x = s.randomByte &&& kk :=
    s.consumeRandom.getV_setV_same x _
  refine ⟨formatXKK_toNat 0xC x kk, _, rfl, fun k => ?bits, fun b rest h => ?injected, fun h => ?free, rfl, ?frame⟩
  case bits => rw [hv, BitVec.getLsbD_and, Bool.and_comm]
  case injected => exact ⟨by rw [hv, State.randomByte_of_tape_cons h], congrArg List.tail h⟩
  case free => exact ⟨by rw [hv, State.randomByte_of_tape_nil h], congrArg List.tail h⟩
  case frame =>
    exact ((unchangedBut_consumeRandom s).mono fun _ h => .inr h).trans
      ((unchangedBut_setV _ x _).mono fun _ h => .inl h)

/-- Settles O29: one write of `V[x]`. -/
theorem loadImmediate : Obligations.LoadImmediate := fun x kk s =>
  ⟨formatXKK_toNat 0x6 x kk, _, rfl, s.getV_setV_same x kk, unchangedBut_setV s x kk⟩

/-- Settles O30: one write of `V[x]`, the sum of two bytes. -/
theorem addImmediateWritesNoFlag : Obligations.AddImmediateWritesNoFlag := by
  intro x kk s
  refine ⟨formatXKK_toNat 0x7 x kk, _, rfl, ?_, unchangedBut_setV s x _⟩
  rw [State.getV_setV_same, BitVec.toNat_add]

end Sys2Proof.Proofs

/-! Index register, loads and stores (42_index_memory.md): the sum and the glyph address as numbers, what a committed access of
several bytes leads to inside memory and beyond it, and the register block. -/

namespace Sys2Proof.Machine

/-! ### The index register (42_index_memory.md R161, R162) -/

theorem indexSum_toNat (s : State) (x : Reg) :
    (s.i + s.getV16 x).toNat = (s.i.toNat + (s.getV x).toNat) % 65536 := by
  rw [BitVec.toNat_add, State.getV16_toNat]

/-- Five times a byte fits 16 bits, so the glyph address is exact. -/
theorem glyphAddress_toNat (s : State) (x : Reg) : (s.getV16 x * 5).toNat = 5 * (s.getV x).toNat := by
  have hv := (s.getV x).isLt
  have h5 : (5 : Word).toNat = 5 := rfl
  rw [BitVec.toNat_mul, State.getV16_toNat, h5]
  omega

/-! ### Several bytes, all or none (20_memory.md R58, 60_exceptions.md R224) -/

/-- Bytes that all fit read back one by one, and nothing else changes. -/
theorem State.commit_writeBytes_of_fits {s : State} {addr : Nat} {bytes : List Byte}
    (h : addr + bytes.length ≤ 4096) :
    ∃ m : Memory, s.commit (s.writeBytes addr bytes) = s.setMem m ∧
      (∀ k < bytes.length, m.byteAt (addr + k) = bytes.getD k 0) ∧
      UnchangedBut (memRange addr bytes.length) s (s.setMem m) := by
  rcases s.writeBytes_cases addr bytes with ⟨_, m, hm, _, hat⟩ | ⟨hout, _⟩
  · refine ⟨m, by rw [hm, State.commit_ok], fun k hk => ?_, unchangedBut_setMem fun b hb => ?_⟩
    · rw [hat, if_pos (by omega), Nat.add_sub_cancel_left]
    · rw [hat, if_neg hb]
  · exact absurd (.inr h) hout

/-- One byte beyond the limit, and none is written. -/
theorem State.commit_writeBytes_of_outside {s : State} {addr : Nat} {bytes : List Byte} (hne : bytes ≠ [])
    (h : 4096 < addr + bytes.length) :
    s.commit (s.writeBytes addr bytes) = s.raise (.memBounds (max addr 4096)) := by
  rcases s.writeBytes_cases addr bytes with ⟨hin, _⟩ | ⟨_, herr⟩
  · exact absurd h (hin.resolve_left hne).not_gt
  · rw [herr, State.commit_error]

/-- The `n` bytes of memory from `addr` on. -/
def State.bytesAt (s : State) (addr n : Nat) : List Byte := (List.range n).map fun k => s.mem.byteAt (addr + k)

theorem State.bytesAt_length (s : State) (addr n : Nat) : (s.bytesAt addr n).length = n := by
  simp [State.bytesAt]

theorem State.bytesAt_getD (s : State) (addr : Nat) {n k : Nat} (d : Byte) (hk : k < n) :
    (s.bytesAt addr n).getD k d = s.mem.byteAt (addr + k) := by
  have hk' : k < (s.bytesAt addr n).length := by rwa [State.bytesAt_length]
  rw [List.getD_eq_getElem _ _ hk']
  simp [State.bytesAt]

theorem State.commit_readBytes_of_fits {s : State} {addr n : Nat} (f : List Byte → State) (h : addr + n ≤ 4096) :
    s.commit ((s.readBytes addr n).map f) = f (s.bytesAt addr n) := by
  rw [State.readBytes_eq, if_pos (.inr h), Except.map, State.commit_ok, State.bytesAt]

/-- One byte beyond the limit, and nothing is done with those below it. -/
theorem State.commit_readBytes_of_outside {s : State} {addr n : Nat} (f : List Byte → State) (hn : 1 ≤ n)
    (h : 4096 < addr + n) :
    s.commit ((s.readBytes addr n).map f) = s.raise (.memBounds (max addr 4096)) := by
  rw [State.readBytes_eq, if_neg (by omega), Except.map, State.commit_error]

/-! ### The register block (42_index_memory.md R165, R166) -/

theorem State.registerBlock_ne_nil (s : State) (x : Reg) : s.registerBlock x ≠ [] :=
  List.ne_nil_of_length_eq_add_one (s.registerBlock_length x)

/-- A loaded block leaves every part but the registers it reaches. -/
theorem unchangedBut_loadBlock (s : State) (bytes : List Byte) :
    UnchangedBut (fun p => ∃ r : Reg, r.val < bytes.length ∧ p = .v r) s (s.loadBlock bytes) := by
  intro p hp
  cases p with
  | v r =>
    have hr : bytes.length ≤ r.val := not_lt.mp fun hlt => hp ⟨r, hlt, rfl⟩
    simp only [Same, State.getV_loadBlock, List.getD_eq_default _ _ hr]
  | _ => simp [Same]

end Sys2Proof.Machine

namespace Sys2Proof.Proofs

open Sys2Proof.Machine

/-- Settles O37: the sum wraps at 65536, and the product is exact. -/
theorem indexArithmetic : Obligations.IndexArithmetic := fun x s =>
  ⟨⟨_, rfl, indexSum_toNat s x, unchangedBut_setI s _⟩, ⟨_, rfl, glyphAddress_toNat s x, unchangedBut_setI s _⟩⟩

/-- Settles O38: the three digits are bytes 0, 1 and 2 of one write that fits. -/
theorem decimalDigitsAreStored : Obligations.DecimalDigitsAreStored := by
  intro x s hfit
  have hlen : (decimalDigits (s.getV x)).length = 3 := rfl
  obtain ⟨m, hm, hat, hframe⟩ :=
    State.commit_writeBytes_of_fits (s := s) (addr := s.i.toNat) (bytes := decimalDigits (s.getV x)) (by omega)
  rw [hlen] at hat hframe
  have h0 : m.byteAt s.i.toNat = s.getV x / 100 := hat 0 (by decide)
  have h1 : m.byteAt (s.i.toNat + 1) = s.getV x / 10 % 10 := hat 1 (by decide)
  have h2 : m.byteAt (s.i.toNat + 2) = s.getV x % 10 := hat 2 (by decide)
  refine ⟨s.setMem m, congrArg Host.Outcome.next hm, ?hundreds, ?tens, ?units, hframe⟩
  case hundreds => simp [h0]
  case tens => simp [h1]
  case units => simp [h2]

/-- Settles O39: `V[r]` is byte `r` of one write that fits. -/
theorem registersAreStored : Obligations.RegistersAreStored := by
  intro x s hfit
  have hlen := s.registerBlock_length x
  obtain ⟨m, hm, hat, hframe⟩ :=
    State.commit_writeBytes_of_fits (s := s) (addr := s.i.toNat) (bytes := s.registerBlock x) (by omega)
  rw [hlen] at hat hframe
  refine ⟨s.setMem m, congrArg Host.Outcome.next hm, fun r hr => ?_, hframe⟩
  exact (hat r.val (Nat.lt_succ_of_le hr)).trans (s.registerBlock_getD x r 0 hr)

/-- Settles O40: `V[r]` is byte `r` of the block read, and the block ends with `V[x]`. -/
theorem registersAreLoaded : Obligations.RegistersAreLoaded := by
  intro x s hfit
  have hload := State.commit_readBytes_of_fits (s := s) (addr := s.i.toNat) (n := x.val + 1) s.loadBlock (by omega)
  refine ⟨_, congrArg Host.Outcome.next hload, fun r hr => ?byte, (unchangedBut_loadBlock s _).mono ?frame⟩
  case byte => rw [State.getV_loadBlock, s.bytesAt_getD _ _ (Nat.lt_succ_of_le hr)]
  case frame =>
    rintro p ⟨r, hr, hp⟩
    rw [State.bytesAt_length] at hr
    exact ⟨r, Nat.le_of_lt_succ hr, hp⟩

/-- Settles O41: each of the four accesses has a byte beyond the limit, so the commit raises the fault of the lowest one in the
entering state. -/
theorem memoryFaultsArePrecise : Obligations.MemoryFaultsArePrecise := by
  intro x y n s
  refine ⟨fun h => ?digits, fun h => ⟨?store, ?load⟩, fun hn h => ?draw⟩
  case digits =>
    have hout : 4096 < s.i.toNat + (decimalDigits (s.getV x)).length := Nat.succ_lt_succ h
    exact ⟨_, congrArg Host.Outcome.next (State.commit_writeBytes_of_outside (List.cons_ne_nil _ _) hout),
      raisedFrom_raise s _⟩
  case store =>
    have hout : 4096 < s.i.toNat + (s.registerBlock x).length := by
      rw [State.registerBlock_length]
      omega
    exact ⟨_, congrArg Host.Outcome.next (State.commit_writeBytes_of_outside (s.registerBlock_ne_nil x) hout),
      raisedFrom_raise s _⟩
  case load =>
    exact ⟨_, congrArg Host.Outcome.next
      (State.commit_readBytes_of_outside s.loadBlock x.val.succ_pos (Nat.succ_lt_succ h)), raisedFrom_raise s _⟩
  case draw =>
    exact ⟨_, congrArg Host.Outcome.next (State.commit_readBytes_of_outside (s.draw x y) hn h), raisedFrom_raise s _⟩

/-- Settles O36: a 12-bit address is its own value in 16 bits. -/
theorem loadIndex : Obligations.LoadIndex := fun nnn s =>
  ⟨formatNNN_toNat 0xA nnn, _, rfl, addressOf_toNat nnn, unchangedBut_setI s _⟩

end Sys2Proof.Proofs

/-! Display (43_display.md): a draw as the flipping of a pattern of pixels, what the blitter's loops draw, which sprites have a
1 bit, and `Dxyn` with its bytes in memory. -/

namespace Sys2Proof.Machine

/-! ### The place of a pixel in the sprite (43_display.md R181) -/

/-- How many rows below the sprite's top line the pixel lies, around the edge. -/
def rowOffset (y0 : Nat) (r : Fin 32) : Nat := (r.val + 32 - y0 % 32) % 32

/-- How many columns to the right of the sprite's leftmost one the pixel lies, around the edge. -/
def colOffset (x0 : Nat) (c : Fin 64) : Nat := (c.val + 64 - x0 % 64) % 64

theorem eq_wrapRow_iff {row : Nat} (h : row < 32) (y0 : Nat) (r : Fin 32) :
    r = wrapRow (y0 + row) ↔ rowOffset y0 r = row := by
  simp only [Fin.ext_iff, wrapRow, rowOffset]
  omega

theorem eq_wrapCol_iff {col : Nat} (h : col < 64) (x0 : Nat) (c : Fin 64) :
    c = wrapCol (x0 + col) ↔ colOffset x0 c = col := by
  simp only [Fin.ext_iff, wrapCol, colOffset]
  omega

theorem spriteOn_eq (x0 y0 : Nat) (bytes : List Byte) (r : Fin 32) (c : Fin 64) :
    spriteOn x0 y0 bytes r c =
      (decide (rowOffset y0 r < bytes.length) && decide (colOffset x0 c < 8) &&
        spriteBit (bytes.getD (rowOffset y0 r) 0) (colOffset x0 c)) := rfl

/-! ### Flipping a pattern of pixels -/

/-- `d'` is `d` with the pixels of the pattern flipped, and with a collision where one of them was on. -/
def Flips (on : Fin 32 → Fin 64 → Bool) (d d' : Drawing) : Prop :=
  (∀ r c, d'.fb.pixel r c = (d.fb.pixel r c != on r c)) ∧
    (d'.collision = true ↔ d.collision = true ∨ ∃ r c, d.fb.pixel r c = true ∧ on r c = true)

theorem Flips.of_blank {on : Fin 32 → Fin 64 → Bool} (h : ∀ r c, on r c = false) (d : Drawing) : Flips on d d := by
  simp [Flips, h]

theorem Flips.congr {p q : Fin 32 → Fin 64 → Bool} {d d' : Drawing} (h : Flips p d d') (heq : ∀ r c, q r c = p r c) :
    Flips q d d' := by
  rwa [Flips, funext₂ heq]

/-- Two patterns with no pixel in common, one after the other, are one: the second meets the pixels as the first found
them. -/
theorem Flips.trans {p q on : Fin 32 → Fin 64 → Bool} {d d' d'' : Drawing} (hp : Flips p d d') (hq : Flips q d' d'')
    (disjoint : ∀ r c, p r c = true → q r c = false) (union : ∀ r c, on r c = (p r c || q r c)) : Flips on d d'' := by
  obtain ⟨pixel, collision⟩ := hp
  obtain ⟨pixel', collision'⟩ := hq
  have untouched (r c) (h : q r c = true) : d'.fb.pixel r c = d.fb.pixel r c := by
    have hpf : p r c = false := Bool.eq_false_iff.mpr fun ht => by simp [disjoint r c ht] at h
    rw [pixel, hpf, Bool.bne_false]
  refine ⟨fun r c => ?pixel, ?collision⟩
  case pixel =>
    rw [pixel', pixel, union]
    cases h : p r c with
    | false => rw [Bool.bne_false, Bool.false_or]
    | true => rw [disjoint r c h, Bool.bne_false, Bool.true_or]
  case collision =>
    rw [collision', collision, or_assoc, ← exists_or]
    refine or_congr_right (exists_congr fun r => ?_)
    rw [← exists_or]
    refine exists_congr fun c => ?_
    rw [union, Bool.or_eq_true, and_or_left]
    exact or_congr_right (and_congr_left fun h => by rw [untouched r c h])

/-! ### The blitter's loops (43_display.md R181) -/

/-- One bit of the sprite. -/
theorem drawBit_flips {row col : Nat} (hrow : row < 32) (hcol : col < 64) (x0 y0 : Nat) (b : Byte) (d : Drawing) :
    Flips (fun r c => decide (rowOffset y0 r = row) && decide (colOffset x0 c = col) && spriteBit b col) d
      (drawBit x0 y0 row b d col) := by
  refine ⟨fun r c => ?pixel, ?collision⟩
  case pixel =>
    simp only [drawBit_pixel, eq_wrapRow_iff hrow, eq_wrapCol_iff hcol, ← Bool.decide_and]
    cases spriteBit b col with
    | false => simp
    | true => by_cases h : rowOffset y0 r = row ∧ colOffset x0 c = col <;> simp [h]
  case collision =>
    simp only [Bool.and_eq_true, decide_eq_true_eq, ← eq_wrapRow_iff hrow, ← eq_wrapCol_iff hcol]
    unfold drawBit
    by_cases h : spriteBit b col = true <;> simp [h]

/-- The first `n` columns of one line. -/
theorem drawColumns_flips {row n : Nat} (hrow : row < 32) (hn : n ≤ 64) (x0 y0 : Nat) (b : Byte) (d : Drawing) :
    Flips (fun r c => decide (rowOffset y0 r = row) && decide (colOffset x0 c < n) && spriteBit b (colOffset x0 c)) d
      ((List.range n).foldl (drawBit x0 y0 row b) d) := by
  induction n with
  | zero => exact .of_blank (by simp) d
  | succ n ih =>
    rw [List.range_succ, List.foldl_append]
    refine (ih (by omega)).trans (drawBit_flips hrow (by omega) x0 y0 b _) (fun r c h => ?disjoint) fun r c => ?union
    case disjoint =>
      have hne : colOffset x0 c ≠ n := by
        simp only [Bool.and_eq_true, decide_eq_true_eq] at h
        omega
      simp [hne]
    case union =>
      by_cases h : colOffset x0 c = n
      · simp [h]
      · have hlt : colOffset x0 c < n + 1 ↔ colOffset x0 c < n := by omega
        simp [h, hlt]

/-- The lines from `row` on. -/
theorem drawRows_flips (x0 y0 : Nat) {row : Nat} {bytes : List Byte} (h : row + bytes.length ≤ 32) (d : Drawing) :
    Flips (fun r c => decide (row ≤ rowOffset y0 r) && decide (rowOffset y0 r < row + bytes.length) &&
        decide (colOffset x0 c < 8) && spriteBit (bytes.getD (rowOffset y0 r - row) 0) (colOffset x0 c)) d
      (drawRows x0 y0 row bytes d) := by
  induction bytes generalizing row d with
  | nil =>
    refine .of_blank (fun r c => ?_) d
    by_cases h : row ≤ rowOffset y0 r <;> simp [h]
  | cons b rest ih =>
    rw [List.length_cons] at h
    refine (drawColumns_flips (by omega) (by decide : 8 ≤ 64) x0 y0 b d).trans (ih (by omega) _) (fun r c h => ?disjoint)
      fun r c => ?union
    case disjoint =>
      have hnext : ¬ row + 1 ≤ rowOffset y0 r := by
        simp only [Bool.and_eq_true, decide_eq_true_eq] at h
        omega
      simp [hnext]
    case union =>
      rcases Nat.lt_trichotomy (rowOffset y0 r) row with hlt | heq | hgt
      · have hnext : ¬ row + 1 ≤ rowOffset y0 r := by omega
        simp [hlt.not_ge, hlt.ne, hnext]
      · simp [heq]
      · have hnext : row + 1 ≤ rowOffset y0 r := hgt
        have hindex : rowOffset y0 r - row = rowOffset y0 r - (row + 1) + 1 := by omega
        have hend : row + (rest.length + 1) = row + 1 + rest.length := by omega
        simp [hgt.le, hgt.ne', hnext, hindex, hend]

/-- The whole sprite, of no more lines than the screen has. -/
theorem blit_flips (fb : Screen) (x0 y0 : Nat) {bytes : List Byte} (h : bytes.length ≤ 32) :
    Flips (spriteOn x0 y0 bytes) ⟨fb, false⟩ (blit fb x0 y0 bytes) := by
  have hrows := drawRows_flips x0 y0 (row := 0) (bytes := bytes) (by omega) ⟨fb, false⟩
  exact hrows.congr fun r c => by simp [spriteOn_eq]

theorem blit_collision_iff (fb : Screen) (x0 y0 : Nat) {bytes : List Byte} (h : bytes.length ≤ 32) :
    (blit fb x0 y0 bytes).collision = true ↔ ∃ r c, fb.pixel r c = true ∧ spriteOn x0 y0 bytes r c = true := by
  simpa using (blit_flips fb x0 y0 h).2

/-! ### Sprites with a 1 bit -/

/-- A byte is not zero exactly when one of its eight sprite bits is 1. -/
theorem exists_spriteBit_iff (b : Byte) : (∃ col < 8, spriteBit b col = true) ↔ b ≠ 0 := by
  constructor
  · rintro ⟨col, _, hbit⟩ rfl
    simp [spriteBit] at hbit
  · intro hb
    by_contra hnone
    push Not at hnone
    refine hb (BitVec.eq_of_getLsbD_eq fun k hk => ?_)
    have hbit := hnone (7 - k) (by omega)
    rw [spriteBit, show 7 - (7 - k) = k by omega] at hbit
    simpa using hbit

/-- A sprite has a 1 bit on some pixel exactly when one of its bytes is not zero, wherever it is drawn. -/
theorem exists_spriteOn_iff (x0 y0 : Nat) {bytes : List Byte} (h : bytes.length ≤ 32) :
    (∃ r c, spriteOn x0 y0 bytes r c = true) ↔ ∃ b ∈ bytes, b ≠ 0 := by
  simp only [spriteOn_eq, Bool.and_eq_true, decide_eq_true_eq]
  constructor
  · rintro ⟨r, c, ⟨hrow, hcol⟩, hbit⟩
    rw [List.getD_eq_getElem _ _ hrow] at hbit
    exact ⟨_, List.getElem_mem hrow, (exists_spriteBit_iff _).mp ⟨_, hcol, hbit⟩⟩
  · rintro ⟨b, hmem, hb⟩
    obtain ⟨row, hrow, rfl⟩ := List.getElem_of_mem hmem
    obtain ⟨col, hcol, hbit⟩ := (exists_spriteBit_iff _).mpr hb
    have hr : rowOffset y0 (wrapRow (y0 + row)) = row := (eq_wrapRow_iff (by omega) y0 _).mp rfl
    have hc : colOffset x0 (wrapCol (x0 + col)) = col := (eq_wrapCol_iff (by omega) x0 _).mp rfl
    refine ⟨wrapRow (y0 + row), wrapCol (x0 + col), ?_⟩
    rw [hr, hc, List.getD_eq_getElem _ _ hrow]
    exact ⟨⟨hrow, hcol⟩, hbit⟩

/-! ### `Dxyn` (43_display.md R182) -/

theorem spriteBytes_length_le (s : State) (n : Fin 16) : (spriteBytes s n).length ≤ 32 := by
  rw [spriteBytes, List.length_map, List.length_range]
  omega

theorem exec_drw_of_fits (x y : Reg) {n : Fin 16} {s : State} (h : n.val = 0 ∨ s.i.toNat + n.val ≤ 0x1000) :
    exec (.drw x y n) s = .next (s.draw x y (spriteBytes s n)) := by
  simp only [exec, execDrw, State.base, spriteHeight, State.readBytes_eq, if_pos h, Except.map, State.commit_ok,
    spriteBytes]

theorem State.draw_getV_ne (s : State) (x y : Reg) (bytes : List Byte) {z : Reg} (h : z ≠ 15) :
    (s.draw x y bytes).getV z = s.getV z :=
  State.getV_setV_ne _ _ h

/-- A draw XORs the sprite onto the screen. -/
theorem State.draw_pixel (s : State) (x y : Reg) {bytes : List Byte} (h : bytes.length ≤ 32) (r : Fin 32) (c : Fin 64) :
    (s.draw x y bytes).fb.pixel r c =
      (s.fb.pixel r c != spriteOn (s.getV x).toNat (s.getV y).toNat bytes r c) :=
  (blit_flips s.fb _ _ h).1 r c

theorem unchangedBut_draw (s : State) (x y : Reg) (bytes : List Byte) :
    UnchangedBut (fun p => p = .v 15 ∨ anyPixel p) s (s.draw x y bytes) :=
  ((unchangedBut_setScreen s _).mono fun _ h => .inr h).trans ((unchangedBut_setV _ flagReg _).mono fun _ h => .inl h)

theorem flagOf_eq_one_iff (c : Bool) : flagOf c = 1 ↔ c = true := by
  cases c <;> decide

theorem flagOf_eq_zero_iff (c : Bool) : flagOf c = 0 ↔ ¬ c = true := by
  cases c <;> decide

/-- `VF` is 1 after a draw that met a pixel that was on, and 0 after every other one. -/
theorem State.draw_flag (s : State) (x y : Reg) {bytes : List Byte} (h : bytes.length ≤ 32) :
    ((s.draw x y bytes).getV 15 = 1 ↔
      ∃ r c, s.fb.pixel r c = true ∧ spriteOn (s.getV x).toNat (s.getV y).toNat bytes r c = true) ∧
    ((s.draw x y bytes).getV 15 = 0 ↔
      ¬ ∃ r c, s.fb.pixel r c = true ∧ spriteOn (s.getV x).toNat (s.getV y).toNat bytes r c = true) := by
  have hflag : (s.draw x y bytes).getV 15 = flagOf (blit s.fb (s.getV x).toNat (s.getV y).toNat bytes).collision :=
    State.getV_setV_same _ _ _
  rw [hflag, flagOf_eq_one_iff, flagOf_eq_zero_iff, blit_collision_iff _ _ _ h]
  exact ⟨Iff.rfl, Iff.rfl⟩

/-- Where a draw went and its coordinates still stand, the same draw takes it back. -/
theorem State.draw_fb_of_drawn {s t : State} {x y : Reg} {bytes : List Byte} (h : bytes.length ≤ 32)
    (hfb : t.fb = (s.draw x y bytes).fb) (hx : t.getV x = s.getV x) (hy : t.getV y = s.getV y) :
    (t.draw x y bytes).fb = s.fb := by
  refine Screen.ext_pixel fun r c => ?_
  rw [State.draw_pixel _ _ _ h, hfb, hx, hy, State.draw_pixel _ _ _ h, Bool.bne_assoc, bne_self_eq_false,
    Bool.bne_false]

end Sys2Proof.Machine

namespace Sys2Proof.Proofs

open Sys2Proof.Machine

/-- Settles O44: the loops flip the pixels of the whole sprite, no pixel twice. -/
theorem blitIsPixelwiseXor : Obligations.BlitIsPixelwiseXor := fun fb x0 y0 _ hlen =>
  have hlen' := hlen.trans (by decide : 15 ≤ 32)
  ⟨(blit_flips fb x0 y0 hlen').1, blit_collision_iff fb x0 y0 hlen'⟩

/-- Settles O45: a pixel goes off exactly where it was on and the sprite has a 1 bit. -/
theorem drawXorsAndReportsCollision : Obligations.DrawXorsAndReportsCollision := by
  intro x y n s hfit
  have hlen := spriteBytes_length_le s n
  have hpixel := s.draw_pixel x y hlen
  obtain ⟨hone, hzero⟩ := s.draw_flag x y hlen
  have hoff (r c) : (s.fb.pixel r c = true ∧ (s.draw x y (spriteBytes s n)).fb.pixel r c = false) ↔
      (s.fb.pixel r c = true ∧ spriteOn (s.getV x).toNat (s.getV y).toNat (spriteBytes s n) r c = true) :=
    and_congr_right fun hon => by rw [hpixel, hon, Bool.true_bne, Bool.not_eq_false']
  refine ⟨_, exec_drw_of_fits x y hfit, hpixel, ?flag, unchangedBut_draw s x y _⟩
  simp only [hoff, hone, hzero, and_self]
  exact em _

/-- Settles O46: the second draw finds the same bytes, coordinates and the screen of the first; on a screen that was clear the
first draw leaves on exactly the pixels of the sprite. -/
theorem drawingTwiceRestoresTheScreen : Obligations.DrawingTwiceRestoresTheScreen := by
  intro x y n s hfit
  have hlen := spriteBytes_length_le s n
  have hrestored (z : Reg) : ((s.draw x y (spriteBytes s n)).setV 15 (s.getV 15)).getV z = s.getV z := by
    rw [State.getV_setV]
    split
    · next hz => rw [hz]
    · next hz => exact s.draw_getV_ne x y _ hz
  refine ⟨_, exec_drw_of_fits x y hfit, ⟨_, exec_drw_of_fits x y hfit, ?restored⟩, fun hx15 hy15 => ?again⟩
  case restored => exact State.draw_fb_of_drawn hlen rfl (hrestored x) (hrestored y)
  case again =>
    have hx := s.draw_getV_ne x y (spriteBytes s n) hx15
    have hy := s.draw_getV_ne x y (spriteBytes s n) hy15
    refine ⟨_, exec_drw_of_fits x y hfit, State.draw_fb_of_drawn hlen rfl hx hy, fun hclear => ⟨?first, ?second⟩⟩
    case first => exact (s.draw_flag x y hlen).2.mpr (by simp [hclear])
    case second =>
      refine ((s.draw x y (spriteBytes s n)).draw_flag x y hlen).1.trans ?_
      simp only [hx, hy, s.draw_pixel x y hlen, hclear, Bool.false_bne, and_self]
      exact exists_spriteOn_iff _ _ hlen

/-- Settles O43: a clear screen is written over the old one, and the word is the encoding of the instruction. -/
theorem clearTurnsEveryPixelOff : Obligations.ClearTurnsEveryPixelOff := by
  refine ⟨fun s => ⟨_, rfl, Screen.pixel_clear, fun x y => Screen.pixel_clear y x, unchangedBut_setScreen s _⟩, ?word⟩
  case word =>
    refine fun op => ⟨fun h => (encode_of_decode h).symm, ?_⟩
    rintro rfl
    exact decode_encode .cls

/-- Settles O19: every run state accepts a query, which reads one pixel. -/
theorem pixelQueryReadsAndChangesNothing : Obligations.PixelQueryReadsAndChangesNothing :=
  fun _ _ _ _ h => ⟨rfl, step_of_inbox h⟩

end Sys2Proof.Proofs

/-! Keys and timers (44_keys_timers.md): runs of several steps, the key wait event by event, the key operand by its value, the
timers as numbers, and the sound timer as a part that no instruction reads. -/

namespace Sys2Proof.Machine

/-! ### Runs of several steps -/

section Runs

variable {M : Host.Core} {s t : M.State}

theorem run_succ_of_step (h : M.step s = .next t) (n : Nat) : M.run (n + 1) s = M.run n t := by
  simp only [Host.Core.run, h]

theorem run_add_of_run {m : Nat} (h : M.run m s = .next t) (n : Nat) : M.run (m + n) s = M.run n t := by
  induction m generalizing s with
  | zero =>
    cases h
    rw [Nat.zero_add]
  | succ m ih =>
    rw [Host.Core.run] at h
    split at h
    · next u hstep => rw [Nat.succ_add, run_succ_of_step hstep, ih h]
    · cases h
    · cases h

theorem run_of_fixed (h : M.step s = .next s) (n : Nat) : M.run n s = .next s := by
  induction n with
  | zero => rfl
  | succ n ih => rw [run_succ_of_step h, ih]

end Runs

/-! ### The key wait (44_keys_timers.md R205) -/

/-- The events that leave a key wait as it is: those it does not accept, a release and a query (60_exceptions.md R228). -/
def KeepsKeyWait (e : Event) : Prop :=
  e = .step ∨ e = .timerTick ∨ (∃ j, e = .keyUp j) ∨ ∃ c r, e = .pixelQuery c r

/-- What those events may change: the keys, and the inbox they are taken from. -/
def inboxOrKey (p : Part) : Prop := p = .inbox ∨ ∃ j, p = .key j

theorem step_of_awaitKey {s : State} {x : Reg} (hi : s.inbox = []) (hr : s.rs = .awaitKey x) : step s = .next s := by
  have hna : s.accepts .step = false := by simp only [State.accepts, hr]
  simp only [step, State.turn, hi, hr, State.serve_of_not_accepted hna]

theorem serve_keepsKeyWait {s : State} {x : Reg} {e : Event} (hr : s.rs = .awaitKey x) (he : KeepsKeyWait e) :
    ∃ t, s.serve e = .next t ∧ t.rs = .awaitKey x ∧ t.inbox = s.inbox ∧ UnchangedBut inboxOrKey s t := by
  have hframe := UnchangedBut.refl inboxOrKey s
  rcases he with rfl | rfl | ⟨j, rfl⟩ | ⟨c, r, rfl⟩
  case inl | inr.inl =>
    exact ⟨s, State.serve_of_not_accepted (by simp only [State.accepts, hr]), hr, rfl, hframe⟩
  case inr.inr.inl =>
    have hserve : s.serve (.keyUp j) = .next (s.setKey j false) := by
      simp only [State.serve, State.accepts, hr, if_true, State.keyUp]
    exact ⟨_, hserve, hr, rfl, (unchangedBut_setKey s j false).mono fun _ h => .inr ⟨j, h⟩⟩
  case inr.inr.inr => exact ⟨s, rfl, hr, rfl, hframe⟩

/-- Delivering such events one after the other, the block goes on waiting. -/
theorem run_keepsKeyWait {s : State} {x : Reg} {before rest : List Event} (hr : s.rs = .awaitKey x)
    (hi : s.inbox = before ++ rest) (hb : ∀ e ∈ before, KeepsKeyWait e) :
    ∃ t, core.run before.length s = .next t ∧ t.rs = .awaitKey x ∧ t.inbox = rest ∧ UnchangedBut inboxOrKey s t := by
  induction before generalizing s with
  | nil => exact ⟨s, rfl, hr, hi, UnchangedBut.refl _ s⟩
  | cons e before ih =>
    obtain ⟨he, hb⟩ := List.forall_mem_cons.mp hb
    obtain ⟨u, hu, hur, hui, hframe⟩ := serve_keepsKeyWait (s := s.setInbox (before ++ rest)) hr he
    obtain ⟨t, ht, htr, hti, hframe'⟩ := ih hur hui hb
    have hstep : step s = .next u := (step_of_inbox hi).trans hu
    have hinbox := (unchangedBut_setInbox s (before ++ rest)).mono (d := inboxOrKey) fun _ h => .inl h
    exact ⟨t, (run_succ_of_step (M := core) hstep _).trans ht, htr, hti, (hinbox.trans hframe).trans hframe'⟩

/-- The second half of `Fx0A`: the key press writes the waiting register and sets the block running. -/
theorem step_of_keyDown_awaitKey {s : State} {x : Reg} {k : Fin 16} {rest : List Event}
    (hi : s.inbox = .keyDown k :: rest) (hr : s.rs = .awaitKey x) :
    step s = .next ((((s.setInbox rest).setKey k true).setV x (BitVec.ofNat 8 k.val)).setRun .running) := by
  rw [step_of_inbox hi]
  simp only [State.serve, State.accepts, State.keyDown, State.setInbox_rs, hr, if_true]

theorem keyByte_toNat (k : Fin 16) : (BitVec.ofNat 8 k.val).toNat = k.val := by
  rw [BitVec.toNat_ofNat]
  omega

/-! ### The key operand (44_keys_timers.md R200, R201) -/

theorem State.keyOf_of_key {s : State} {x : Reg} {k : Fin 16} (h : (s.getV x).toNat = k.val) : s.keyOf x = .ok k := by
  rcases s.keyOf_cases x with ⟨_, hk⟩ | ⟨hlarge, _⟩
  · rw [hk]
    exact congrArg Except.ok (Fin.ext h)
  · omega

theorem State.keyOf_of_large {s : State} {x : Reg} (h : 15 < (s.getV x).toNat) :
    s.keyOf x = .error (.keyIndex (s.getV x)) := by
  rcases s.keyOf_cases x with ⟨hkey, _⟩ | ⟨_, hk⟩
  · omega
  · exact hk

/-! ### The timers (60_exceptions.md R232) -/

theorem countDown_toNat (b : Byte) : (countDown b).toNat = b.toNat - 1 := by
  unfold countDown
  split
  · next h => rw [h]; rfl
  · next h => bv_omega

/-- The words of the major opcode 0xF as numbers. -/
theorem familyF_toNat (x : Reg) (kk : Byte) : (formatXKK 0xF x kk).toNat = 0xF000 + kk.toNat + x.val * 256 := by
  have h15 : (0xF : BitVec 4).toNat = 15 := rfl
  rw [formatXKK_toNat, h15]
  omega

/-! ### The sound timer is not read (44_keys_timers.md R204) -/

theorem State.skipIf_setSt (s : State) (b : Byte) (c : Bool) : (s.setSt b).skipIf c = (s.skipIf c).setSt b := by
  cases c <;> rfl

theorem State.readBytes_setSt (s : State) (b : Byte) (addr n : Nat) :
    (s.setSt b).readBytes addr n = s.readBytes addr n := by
  simp only [State.readBytes_eq, State.setSt_mem]

theorem State.writeBytes_setSt (s : State) (b : Byte) (addr : Nat) (bytes : List Byte) :
    (s.setSt b).writeBytes addr bytes = (s.writeBytes addr bytes).map (·.setSt b) := by
  induction bytes generalizing s addr with
  | nil => rfl
  | cons v rest ih =>
    simp only [State.writeBytes, State.memWrite_eq, State.setSt_mem]
    by_cases h : addr < 4096
    · simp only [h, if_true]
      exact ih (s.setMem (s.mem.setByte addr v)) (addr + 1)
    · simp only [h, if_false, Except.map]

/-- A commit of what does not read `ST`: the effect or the fault is the same but for `ST`. -/
theorem State.commit_map_setSt {α : Type} (s : State) (b : Byte) (r : Except Fault α) {f g : α → State}
    (h : ∀ a, g a = (f a).setSt b) : (s.setSt b).commit (r.map g) = (s.commit (r.map f)).setSt b := by
  cases r with
  | ok a => exact h a
  | error _ => rfl

theorem State.commit_writeBytes_setSt (s : State) (b : Byte) (addr : Nat) (bytes : List Byte) :
    (s.setSt b).commit ((s.setSt b).writeBytes addr bytes) = (s.commit (s.writeBytes addr bytes)).setSt b := by
  rw [State.writeBytes_setSt]
  cases s.writeBytes addr bytes <;> rfl

theorem State.commit_readBytes_setSt (s : State) (b : Byte) (addr n : Nat) {f g : List Byte → State}
    (h : ∀ bytes, g bytes = (f bytes).setSt b) :
    (s.setSt b).commit (((s.setSt b).readBytes addr n).map g) = (s.commit ((s.readBytes addr n).map f)).setSt b := by
  rw [State.readBytes_setSt]
  exact s.commit_map_setSt b _ h

/-- From two states that differ in `ST` alone, every instruction leads to two states that differ in `ST` at most. -/
theorem exec_setSt (ins : Instr) (s : State) (b : Byte) :
    ∃ t c, exec ins s = .next t ∧ exec ins (s.setSt b) = .next (t.setSt c) := by
  cases ins with
  | ldStVx x => exact ⟨s.setSt (s.getV x), s.getV x, rfl, rfl⟩
  | ret =>
    by_cases h : s.sp.val = 0
    · exact ⟨_, b, exec_ret_of_empty h, exec_ret_of_empty (s := s.setSt b) h⟩
    · have htop : s.sp.val = (⟨s.sp.val - 1, by omega⟩ : Fin 16).val + 1 := (Nat.succ_pred h).symm
      exact ⟨_, b, exec_ret_of_top htop rfl, exec_ret_of_top (s := s.setSt b) htop rfl⟩
  | call nnn =>
    by_cases h : s.sp.val < 16
    · exact ⟨_, b, exec_call_of_lt nnn h, exec_call_of_lt (s := s.setSt b) nnn h⟩
    · have hfull : s.sp.val = 16 := by omega
      exact ⟨_, b, exec_call_of_full nnn hfull, exec_call_of_full (s := s.setSt b) nnn hfull⟩
  | seImm | sneImm | seReg | sneReg => exact ⟨_, b, rfl, congrArg Host.Outcome.next (s.skipIf_setSt b _)⟩
  | skp x | sknp x =>
    exact ⟨_, b, rfl, congrArg Host.Outcome.next (s.commit_map_setSt b (s.keyOf x) fun _ => s.skipIf_setSt b _)⟩
  | drw | loadRegs => exact ⟨_, b, rfl, congrArg Host.Outcome.next (s.commit_readBytes_setSt b _ _ fun _ => rfl)⟩
  | ldB | storeRegs => exact ⟨_, b, rfl, congrArg Host.Outcome.next (s.commit_writeBytes_setSt b _ _)⟩
  | _ => exact ⟨_, b, rfl, rfl⟩

end Sys2Proof.Machine

namespace Sys2Proof.Proofs

open Sys2Proof.Machine

/-- Settles O10: such a state is a fixed point of the step. -/
theorem keyWaitWithoutEventHangs : Obligations.KeyWaitWithoutEventHangs := fun _ _ n hi hr =>
  run_of_fixed (M := core) (step_of_awaitKey hi hr) n

/-- Settles O20: every prefix of `before` keeps the wait, and after the whole of it the key press is what is delivered. -/
theorem keyWaitCompletesAtFirstKeyDown : Obligations.KeyWaitCompletesAtFirstKeyDown := by
  intro s x k before rest hr hi hb
  refine ⟨fun m hm => ?wait, ?complete⟩
  case wait =>
    have hsplit : s.inbox = before.take m ++ (before.drop m ++ .keyDown k :: rest) := by
      rw [hi, ← List.append_assoc, List.take_append_drop]
    have hkeep := run_keepsKeyWait hr hsplit fun e he => hb e (List.mem_of_mem_take he)
    rwa [List.length_take_of_le hm] at hkeep
  case complete =>
    obtain ⟨u, hu, hur, hui, hframe⟩ := run_keepsKeyWait hr hi hb
    have hstep := step_of_keyDown_awaitKey hui hur
    have hrun := (run_add_of_run (M := core) hu 1).trans (run_succ_of_step (M := core) hstep 0)
    refine ⟨_, hrun, rfl, rfl, ?value, ?key, (hframe.mono ?waited).trans ?pressed⟩
    case value => rw [State.setRun_getV, State.getV_setV_same, keyByte_toNat]
    case key => simp
    case waited => exact fun p h => h.elim .inl fun hk => .inr (.inr (.inr hk))
    case pressed =>
      have hinbox := unchangedBut_setInbox u rest
      have hkey := unchangedBut_setKey (u.setInbox rest) k true
      have hreg := unchangedBut_setV ((u.setInbox rest).setKey k true) x (BitVec.ofNat 8 k.val)
      exact (hinbox.mono fun _ h => .inl h).trans <| (hkey.mono fun _ h => .inr (.inr (.inr ⟨k, h⟩))).trans <|
        (hreg.mono fun _ h => .inr (.inr (.inl h))).trans <|
        (unchangedBut_setRun _ .running).mono fun _ h => .inr (.inl h)

/-- Settles O47: the operand is the key, and each skip tests its flag. -/
theorem keySkips : Obligations.KeySkips := by
  intro x k s hk
  have hkey := State.keyOf_of_key hk
  refine ⟨⟨s.skipIf s.keys[k], ?_, s.skipIf_pc_toNat _, unchangedBut_skipIf s _⟩,
    ⟨s.skipIf (!s.keys[k]), ?_, s.skipIf_pc_toNat_of_iff (Bool.not_eq_true' _).to_iff, unchangedBut_skipIf s _⟩⟩
  · simp only [exec, execSkp, hkey, Except.map, State.commit_ok]
  · simp only [exec, execSknp, hkey, Except.map, State.commit_ok]

/-- Settles O48: the operand is the fault, and the commit raises it in the entering state. -/
theorem keyIndexFaultsArePrecise : Obligations.KeyIndexFaultsArePrecise := by
  intro x s hlarge
  have hkey := State.keyOf_of_large hlarge
  refine ⟨⟨_, ?_, raisedFrom_raise s _⟩, ⟨_, ?_, raisedFrom_raise s _⟩⟩
  · simp only [exec, execSkp, hkey, Except.map, State.commit_error]
  · simp only [exec, execSknp, hkey, Except.map, State.commit_error]

/-- Settles O50: `ST` is written, and a change of it before an instruction commutes with the instruction. -/
theorem soundTimerIsSetAndNeverRead : Obligations.SoundTimerIsSetAndNeverRead := by
  refine ⟨fun x s => ⟨familyF_toNat x 0x18, _, rfl, rfl, unchangedBut_setSt s _⟩, fun ins s b => ?_⟩
  obtain ⟨t, c, ht, hu⟩ := exec_setSt ins s b
  exact ⟨t, t.setSt c, ht, hu, unchangedBut_setSt t c⟩

/-- Settles O49: two writes of one part each, and a tick takes 1 off or leaves 0. -/
theorem delayTimerMoves : Obligations.DelayTimerMoves := fun x s =>
  ⟨⟨familyF_toNat x 0x07, familyF_toNat x 0x15⟩,
    ⟨_, rfl, s.getV_setV_same x s.dt, unchangedBut_setV s x _⟩,
    (countDown_toNat s.dt).trans_le (Nat.sub_le _ _),
    ⟨_, rfl, rfl, unchangedBut_setDt s _⟩⟩

/-- Settles O51: one write of the run state. -/
theorem keyWaitBegins : Obligations.KeyWaitBegins := fun x s =>
  ⟨_, rfl, rfl, unchangedBut_setRun s (.awaitKey x)⟩

end Sys2Proof.Proofs

/-! Exceptions and events (60_exceptions.md): which effects halt the block, what explains a halt, and what each run state does
with an event. -/

namespace Sys2Proof.Machine

/-! ### The instructions that halt (60_exceptions.md R222, R224) -/

/-- From a state in which no fault has been raised, a halt is the raise of a listed fault that the frozen state explains. -/
theorem Effect.raised_of_halted {s t : State} {ins : Instr} {f : Fault} (h : Effect s ins t) (hs : Safe s)
    (hf : t.rs = .halted f) : t = s.raise f ∧ mayRaise ins f = true ∧ HaltExplained t := by
  cases h with
  | fault hmay hexp =>
    cases hf
    exact ⟨rfl, hmay, hexp⟩
  | wait x => cases hf
  | skip c => exact absurd ((s.skipIf_rs c).symm.trans hf) (hs f)
  | _ => exact absurd hf (hs f)

/-! ### Explained halts (60_exceptions.md R221, R223) -/

theorem haltExplained_of_halted {s : State} (h : ∀ f, s.rs = .halted f → HaltExplained s) : HaltExplained s := by
  cases hr : s.rs with
  | halted f => exact h f hr
  | _ => simp only [HaltExplained, hr]

theorem Safe.haltExplained {s : State} (hs : Safe s) : HaltExplained s :=
  haltExplained_of_halted fun f hf => absurd hf (hs f)

/-- The address a fetch reports is the first bad one at `pc` (10_state.md R25 step 2). -/
theorem haltExplained_raise_of_fetch {s : State} {f : Fault} (h : s.fetch = .error f) : HaltExplained (s.raise f) := by
  rw [State.fetch_eq] at h
  split at h
  · cases h
  · next hout =>
    cases h
    have hpc : 0xFFF ≤ s.pc.toNat := by omega
    exact .inl ⟨hpc, rfl⟩

theorem State.cycle_explains_halt {s t : State} (hr : s.rs = .running) (h : s.cycle = .next t) : HaltExplained t := by
  have hadv : Safe s.advance := fun f hf => by cases hr.symm.trans hf
  rcases s.cycle_cases with ⟨f, hf, hc⟩ | ⟨op, ins, _, _, hc⟩ | ⟨op, c, _, _, hc⟩ <;> rw [hc] at h
  · cases h
    exact haltExplained_raise_of_fetch hf
  · refine haltExplained_of_halted fun f hf => ?_
    obtain ⟨_, _, hexp⟩ := (Effect.of_exec h).raised_of_halted hadv hf
    exact hexp
  · cases h
    exact hadv.haltExplained

theorem safe_of_accepts_loadProgram {s : State} {bytes : List Byte} (h : s.accepts (.loadProgram bytes) = true) :
    Safe s := by
  intro f hr
  simp only [State.accepts, hr, Bool.false_eq_true] at h

/-- An accepted load finds no fault raised, so the `pc` it moves explains no halt; one that is too large says so by its
length (20_memory.md R62). -/
theorem State.loadProgram_explains_halt {s : State} {bytes : List Byte} (h : s.accepts (.loadProgram bytes) = true) :
    HaltExplained (s.loadProgram bytes) := by
  rcases s.loadProgram_cases bytes with ⟨_, m, hm, _, _⟩ | ⟨hlarge, hf⟩
  · have hs : Safe s := safe_of_accepts_loadProgram h
    have hs' : Safe ((s.setMem m).setPc 512) := hs
    rw [hm]
    exact hs'.haltExplained
  · have hlen : 3584 < bytes.length := by omega
    rw [hf]
    exact hlen

/-! ### Events by run state (60_exceptions.md R225, R228) -/

/-- A halted block passes over all but `Reset`; the query it accepts only reads (43_display.md R183). -/
theorem State.serve_of_halted {s : State} {f : Fault} {e : Event} (hr : s.rs = .halted f) (he : e ≠ .reset) :
    s.serve e = .next s := by
  cases e with
  | reset => exact absurd rfl he
  | pixelQuery x y => rfl
  | _ => exact State.serve_of_not_accepted (by simp only [State.accepts, hr])

theorem State.serve_of_awaitKey {s : State} {x : Reg} {e : Event} (hr : s.rs = .awaitKey x)
    (he : e = .step ∨ e = .timerTick) : s.serve e = .next s := by
  rcases he with rfl | rfl <;> exact State.serve_of_not_accepted (by simp only [State.accepts, hr])

/-- A block in which no fault has been raised accepts both key events. -/
theorem Safe.accepts_key {s : State} (hs : Safe s) (k : Fin 16) :
    s.accepts (.keyDown k) = true ∧ s.accepts (.keyUp k) = true := by
  cases hr : s.rs with
  | halted f => exact absurd hr (hs f)
  | _ => simp only [State.accepts, hr, and_self]

section Delivery

variable {s : State} {k : Fin 16} {rest : List Event}

theorem step_of_keyDown (hi : s.inbox = .keyDown k :: rest) (hs : Safe s) :
    step s = .next ((s.setInbox rest).keyDown k) := by
  have hs' : Safe (s.setInbox rest) := hs
  rw [step_of_inbox hi]
  simp only [State.serve, (hs'.accepts_key k).1, if_true]

theorem step_of_keyUp (hi : s.inbox = .keyUp k :: rest) (hs : Safe s) :
    step s = .next ((s.setInbox rest).keyUp k) := by
  have hs' : Safe (s.setInbox rest) := hs
  rw [step_of_inbox hi]
  simp only [State.serve, (hs'.accepts_key k).2, if_true]

theorem step_of_timerTick (hi : s.inbox = .timerTick :: rest) (hr : s.rs = .running) :
    step s = .next (s.setInbox rest).timerTick := by
  rw [step_of_inbox hi]
  simp only [State.serve, State.accepts, State.setInbox_rs, hr, if_true]

end Delivery

/-! ### What an event leaves unchanged -/

/-- A key flag written after a delivery: the part that both key events share (60_exceptions.md R230, R231). -/
theorem unchangedBut_setInbox_setKey (s : State) (rest : List Event) (k : Fin 16) (down : Bool) :
    UnchangedBut (fun p => p = .inbox ∨ p = .key k) s ((s.setInbox rest).setKey k down) :=
  ((unchangedBut_setInbox s rest).mono fun _ h => .inl h).trans
    ((unchangedBut_setKey _ k down).mono fun _ h => .inr h)

theorem unchangedBut_timerTick (s : State) : UnchangedBut (fun p => p = .dt ∨ p = .st) s s.timerTick :=
  ((unchangedBut_setDt s _).mono fun _ h => .inl h).trans ((unchangedBut_setSt _ _).mono fun _ h => .inr h)

end Sys2Proof.Machine

namespace Sys2Proof.Proofs

open Sys2Proof.Machine

/-- Settles O60: a block halts in an instruction cycle or in a load, each of which leaves what explains it; a key press that
writes a register leaves the block running, and the other events write nothing that an explanation reads. -/
theorem stepKeepsHaltExplained : Obligations.StepKeepsHaltExplained := fun _ _ hs h =>
  step_keeps (P := HaltExplained)
    (deliver := fun _ _ hs => hs)
    (cycle := fun _ _ _ hr hc => State.cycle_explains_halt hr hc)
    (reset := fun _ _ => trivial)
    (load := fun _ _ _ ha => State.loadProgram_explains_halt ha)
    (keyDown := fun s k hs _ => by
      rcases s.keyDown_cases k with ⟨_, _, hk⟩ | ⟨_, hk⟩ <;> rw [hk]
      · trivial
      · exact hs)
    (keyUp := fun _ _ hs _ => hs)
    (tick := fun _ hs _ => hs) hs h

/-- Settles O11: neither run state does anything with the event but take it from the inbox. -/
theorem unacceptedEventsChangeNothing : Obligations.UnacceptedEventsChangeNothing := by
  intro s e rest hi hstate
  rw [step_of_inbox hi]
  rcases hstate with ⟨⟨f, hr⟩, he⟩ | ⟨⟨x, hr⟩, he⟩
  · exact State.serve_of_halted (s := s.setInbox rest) hr he
  · exact State.serve_of_awaitKey (s := s.setInbox rest) hr he

/-- Settles O16: a waiting block writes the key, the waiting register and the run state; a running one the key alone. -/
theorem keyDownSetsFlagAndEndsWait : Obligations.KeyDownSetsFlagAndEndsWait := by
  intro s k rest hi hs
  have hkey : ((s.setInbox rest).setKey k true).keys[k] = true := by simp
  have hframe := unchangedBut_setInbox_setKey s rest k true
  refine ⟨_, step_of_keyDown hi hs, ?_⟩
  rcases (s.setInbox rest).keyDown_cases k with ⟨x, hr, hk⟩ | ⟨hr, hk⟩ <;> rw [hk]
  · refine ⟨rfl, hkey, fun y hy => ?waiting, fun hrun => by cases hr.symm.trans hrun⟩
    case waiting =>
      cases hr.symm.trans hy
      have hreg := unchangedBut_setV ((s.setInbox rest).setKey k true) x (BitVec.ofNat 8 k.val)
      have hrun := unchangedBut_setRun (((s.setInbox rest).setKey k true).setV x (BitVec.ofNat 8 k.val)) .running
      refine ⟨?value, rfl, (hframe.mono ?pressed).trans ((hreg.mono ?written).trans (hrun.mono ?woken))⟩
      case value => rw [State.setRun_getV, State.getV_setV_same, keyByte_toNat]
      case pressed => exact fun _ h => h.imp_right .inl
      case written => exact fun _ h => .inr (.inr (.inl h))
      case woken => exact fun _ h => .inr (.inr (.inr h))
  · exact ⟨rfl, hkey, fun x hx => absurd hx (hr x), fun _ => hframe⟩

/-- Settles O17: a release is one write of its flag. -/
theorem keyUpClearsItsFlagOnly : Obligations.KeyUpClearsItsFlagOnly := fun s k rest hi hs =>
  have hkey : ((s.setInbox rest).setKey k false).keys[k] = false := by simp
  ⟨_, step_of_keyUp hi hs, rfl, hkey, unchangedBut_setInbox_setKey s rest k false⟩

/-- Settles O18: a tick counts both timers down, and truncated subtraction is what stops at zero. -/
theorem timerTickCountsBothDown : Obligations.TimerTickCountsBothDown := fun s rest hi hr =>
  ⟨_, step_of_timerTick hi hr, rfl, countDown_toNat s.dt, countDown_toNat s.st,
    ((unchangedBut_setInbox s rest).mono fun _ h => .inl h).trans
      ((unchangedBut_timerTick _).mono fun _ h => .inr h)⟩

/-- Settles O56: the only effect that halts is the raise of a fault the instruction may raise. -/
theorem faultsArePreciseAndExhaustive : Obligations.FaultsArePreciseAndExhaustive := by
  intro ins s t f hs h hf
  obtain ⟨ht, hmay, _⟩ := (Effect.of_exec h).raised_of_halted hs hf
  exact ⟨ht, hmay⟩

/-- Settles O9: with the inbox empty, a halted block's turn is its fault. -/
theorem haltedBlockAnswersItsFault : Obligations.HaltedBlockAnswersItsFault := by
  intro s f hi hr
  simp only [step, State.turn, hi, hr]

/-- Settles O52: every instruction has one of the effects, in a next state. -/
theorem everyInstructionAnswersNext : Obligations.EveryInstructionAnswersNext := by
  intro ins s
  obtain ⟨t, ht, _⟩ := exec_effect ins s
  exact ⟨t, ht⟩

end Sys2Proof.Proofs

/-! Reset and the end of a program (70_reset_and_hazards.md): what a delivered `Reset` leaves, and the instruction cycle of a
jump to its own address. -/

namespace Sys2Proof.Machine

/-! ### The event `Reset` (70_reset_and_hazards.md R260) -/

/-- No run state refuses a `Reset` (60_exceptions.md R228). -/
theorem step_of_reset {s : State} {rest : List Event} (hi : s.inbox = .reset :: rest) :
    step s = .next (s.setInbox rest).resetEvent := by
  have ha : (s.setInbox rest).accepts .reset = true := rfl
  rw [step_of_inbox hi]
  simp only [State.serve, ha, if_true]

/-- `Reset` rebuilds the reset state around the host's inputs, so no other part can differ from it (10_state.md R39). -/
theorem unchangedBut_resetEvent (s : State) : UnchangedBut hostInput State.reset s.resetEvent := by
  intro p hp
  cases p with
  | inbox => exact absurd (.inl rfl) hp
  | tape => exact absurd (.inr (.inl rfl)) hp
  | draws => exact absurd (.inr (.inr rfl)) hp
  | _ => rfl

/-! ### The end of a program (70_reset_and_hazards.md R264) -/

/-- A jump sets `pc` whatever the fetch advanced it to, so the advance leaves no trace (40_flow.md R111). -/
theorem State.cycle_of_jp {s : State} {nnn : BitVec 12} (hpc : s.pc.toNat ≤ 0xFFE)
    (hw : wordOfBytes (s.mem.byteAt s.pc.toNat) (s.mem.byteAt (s.pc.toNat + 1)) = encode (.jp nnn)) :
    s.cycle = .next (s.setPc (addressOf nnn)) := by
  rw [State.cycle_of_decode hpc (hw ▸ decode_encode (.jp nnn))]
  rfl

theorem addressOf_eq_of_toNat {pc : Word} {nnn : BitVec 12} (h : pc.toNat = nnn.toNat) : addressOf nnn = pc :=
  BitVec.eq_of_toNat_eq ((addressOf_toNat nnn).trans h.symm)

end Sys2Proof.Machine

namespace Sys2Proof.Proofs

open Sys2Proof.Machine

/-- Settles O12: the jump writes the address that `pc` already holds, so the state is a fixed point of the step and of every
run. -/
theorem jumpToItselfIsAnEndState : Obligations.JumpToItselfIsAnEndState := by
  intro s nnn n hr hi hnnn hpc hw
  have hstep : step s = .next s :=
    calc step s = s.cycle := step_of_running hi hr
      _ = .next (s.setPc (addressOf nnn)) := State.cycle_of_jp (hpc.trans_le hnnn) hw
      _ = .next (s.setPc s.pc) := by rw [addressOf_eq_of_toNat hpc]
      _ = .next s := rfl
  exact run_of_fixed (M := core) hstep n

/-- Settles O14: the delivered event takes only the three inputs of the host from the state it finds. -/
theorem resetEventRestoresEverything : Obligations.ResetEventRestoresEverything := fun s rest hi =>
  ⟨(s.setInbox rest).resetEvent, step_of_reset hi, unchangedBut_resetEvent _, rfl, rfl, rfl⟩

end Sys2Proof.Proofs
